-- ==== Sys2Proof/Word.lean ====
section
/-! DEFINITION. The byte, byte sequences and their plainest arithmetic (00_scope R18, R19). -/

namespace Sys2Proof

/-- An 8-bit unsigned value; bit 0 is the least significant (R18). -/
abbrev Byte := BitVec 8

/-- A byte sequence, first byte first (R19). -/
abbrev Bytes := List Byte

/-- `zext_16` of R18; no value of this block is sign-extended. -/
def zext16 (b : Byte) : BitVec 16 := b.setWidth 16

/-- The byte that holds `n mod 2^8`. -/
def toByte (n : Nat) : Byte := BitVec.ofNat 8 n

end Sys2Proof
end

