-- ==== Sys2Proof/Machine/Flags.lean ====
section
/-! DEFINITION. The checksum unit (40_checksum R100 to R104) and the block's one flag, `valid` (10_state R29). -/

namespace Sys2Proof.Machine

/-- The CRC-8 polynomial (R17, R100). -/
def crcPoly : Byte := 0x07

/-- One shift-and-reduce round of R100: bit 7 decides whether the polynomial is folded in. -/
def crcShift (r : Byte) : Byte :=
  if r.msb then (r <<< 1) ^^^ crcPoly else r <<< 1

/-- `n` rounds of `crcShift`. -/
def crcRounds : Nat → Byte → Byte
  | 0, r => r
  | n + 1, r => crcRounds n (crcShift r)

/-- `crc8_step(c, b)` of R100: the byte is XORed in, then eight rounds, most significant bit first. -/
def crc8Step (c b : Byte) : Byte := crcRounds 8 (c ^^^ b)

/-- The loop of R101 started from register value `c` (R103). -/
def crc8From (c : Byte) (s : Bytes) : Byte := s.foldl crc8Step c

/-- `CRC8(s)` of R101: initial value 0, no final XOR. UNVERIFIED (unsafe, D6): log entry 12. -/
def crc8 (s : Bytes) : Byte := crc8From 0 s

/-- The `valid` flag (R29, R128, R141). -/
def frameValid (checksumRx checksumCalc : Byte) : Bool := checksumRx == checksumCalc

end Sys2Proof.Machine
end

