-- ==== Sys2Proof/Config.lean ====
section
/-! DEFINITION. What an implementation fixes (00_scope R8, R12 to R16) and the free values. An `opaque` constant has
no body: nothing can be proved of its value, so a claim that mentions it holds whatever it is. -/

namespace Sys2Proof

/-- `BOOL_DECODE` of R16 and R83: how a payload byte is read as a boolean. -/
inductive BoolDecode where
  /-- Any byte other than `0x00` is true. -/
  | nonzero
  /-- Only `0x01` is true. -/
  | eqOne
deriving DecidableEq, Repr

/-- `EMPTY_ARG_POLICY` of R16 and R152: an event that needs an argument byte and has none. -/
inductive EmptyArgPolicy where
  /-- No collaborator write. -/
  | ignore
  /-- No write, or one write of a freely drawn legal value. -/
  | draw
deriving DecidableEq, Repr

/-- The outcome of one `Send` (R57): `failed k` says that the first `k` bytes reached the wire. -/
inductive SendOutcome where
  | sent
  | failed (k : Nat)
deriving DecidableEq, Repr, Inhabited

/-- One instance of the block's compile-time parameters (R8, R12 to R16). Every value of this type is a legal
instance: the types keep `CAPACITY >= 5` and the angles in `[0, 180]`, and each `LotFull` text is the part of its bytes
that a display write may carry (R45; `Params.lotFullTextTrue` and `Params.lotFullTextFalse`). -/
structure Params where
  /-- How much `CAPACITY` exceeds its least legal value 5 (R8). -/
  capacityExtra : Nat
  /-- `OPEN_ANGLE` (R12). -/
  openAngle : Fin 181
  /-- `CLOSED_ANGLE` (R12). -/
  closedAngle : Fin 181
  /-- Bytes that begin with `LOT_FULL_TEXT_TRUE` (R13, R45). Log entry 20. -/
  lotFullBytesTrue : Bytes
  /-- Bytes that begin with `LOT_FULL_TEXT_FALSE` (R13, R45). Log entry 20. -/
  lotFullBytesFalse : Bytes
  /-- `TIME_WIDTH` (R14); `none` is unbounded timestamps. -/
  timeWidth : Option Nat
  /-- `INIT_PRESENCE` (R15). -/
  initPresence : Bool
  /-- `T_RESET` (R15). -/
  tReset : Nat
  /-- `BOOL_DECODE` (R16). -/
  boolDecode : BoolDecode
  /-- `EMPTY_ARG_POLICY` (R16). -/
  emptyArgPolicy : EmptyArgPolicy
deriving DecidableEq, Repr

/-- `CAPACITY` (R8): the bytes of the largest frame; at least 5 by construction. -/
def Params.capacity (p : Params) : Nat := p.capacityExtra + 5

/-- OPEN: `CAPACITY - 5` (R8, D2). DESIGN CHOICE (safe): left free; log entry 2. -/
opaque Config.capacityExtra : Nat
/-- OPEN: `OPEN_ANGLE` (R12, D12). Log entry 2. -/
opaque Config.openAngle : Fin 181
/-- OPEN: `CLOSED_ANGLE` (R12, D12). Log entry 2. -/
opaque Config.closedAngle : Fin 181
/-- OPEN: the bytes of `LOT_FULL_TEXT_TRUE` (R13, D13). Log entries 2 and 20. -/
opaque Config.lotFullBytesTrue : Bytes
/-- OPEN: the bytes of `LOT_FULL_TEXT_FALSE` (R13, D13). Log entries 2 and 20. -/
opaque Config.lotFullBytesFalse : Bytes
/-- OPEN: `TIME_WIDTH` (R14, D20). Log entry 2. -/
opaque Config.timeWidth : Option Nat
/-- OPEN: `INIT_PRESENCE` (R15, D21). Log entry 2. -/
opaque Config.initPresence : Bool
/-- OPEN: `T_RESET` (R15, D21). Log entry 2. -/
opaque Config.tReset : Nat

/-- Free value: the link's answer to the `n`-th free draw (R57, D15). Log entry 5. -/
opaque Config.linkAnswer : Nat → SendOutcome
/-- Free value: the angle, or no write, of the `n`-th free draw under `DRAW` (R152, D10). Log entry 4. -/
opaque Config.drawnAngle : Nat → Option (Fin 181)
/-- Free value: the text, or no write, of the `n`-th free draw under `DRAW` (R152, D10). Log entry 4. -/
opaque Config.drawnText : Nat → Option Bytes

end Sys2Proof
end

