-- ==== Sys2Proof/Machine/Params.lean ====
section
/-! DEFINITION. The parameter instance after power-on, the limits it sets, and the clock arithmetic of the presence
monitor (00_scope R8 to R16, 44_presence R161). -/

namespace Sys2Proof.Machine

/-- The instance the block starts with. OPEN parameters are free constants; `BOOL_DECODE = NONZERO` and
`EMPTY_ARG_POLICY = IGNORE` are what R16 takes. UNVERIFIED (unsafe, D8 and D10): log entry 3. -/
def instanceParams : Params where
  capacityExtra := Config.capacityExtra
  openAngle := Config.openAngle
  closedAngle := Config.closedAngle
  lotFullBytesTrue := Config.lotFullBytesTrue
  lotFullBytesFalse := Config.lotFullBytesFalse
  timeWidth := Config.timeWidth
  initPresence := Config.initPresence
  tReset := Config.tReset
  boolDecode := .nonzero
  emptyArgPolicy := .ignore

/-- `DEBOUNCE_INTERVAL`, 50 time-units (R9). -/
def debounceInterval : Nat := 50

/-- `HEARTBEAT_INTERVAL`, 1000 time-units (R10). -/
def heartbeatInterval : Nat := 1000

/-- `ANGLE_MAX` (R11); the lower bound 0 is void for an unsigned operand (R145). -/
def angleMax : BitVec 16 := 180

/-- The most payload bytes a frame carries: `min(CAPACITY - 4, 254)` (R78, R111). -/
def payloadLimit (cap : Nat) : Nat := min (cap - 4) 254

/-- The part of `t` that one display write may carry: `0..min(CAPACITY - 4, 254)` bytes (R45). -/
def displayable (p : Params) (t : Bytes) : Bytes := t.take (payloadLimit p.capacity)

/-- The `TIME_WIDTH`-bit timestamp of a clock value (R14, R41). With a finite width a register sees the low bits
of the clock. DESIGN CHOICE (safe): log entry 9. -/
def stamp (p : Params) (now : Nat) : Nat :=
  match p.timeWidth with
  | none => now
  | some w => now % 2 ^ w

/-- `elapsed(t, t0)` of R161. With unbounded timestamps it is `t - t0`; `clockOk` keeps that difference from going
below 0. -/
def elapsed (p : Params) (t t0 : Nat) : Nat :=
  match p.timeWidth with
  | none => t - t0
  | some w => (((t : Int) - (t0 : Int)) % ((2 ^ w : Nat) : Int)).toNat

end Sys2Proof.Machine

namespace Sys2Proof

/-- `LOT_FULL_TEXT_TRUE`: a byte string of R13 that a display write may carry (R45). Log entry 20. -/
def Params.lotFullTextTrue (p : Params) : Bytes := Machine.displayable p p.lotFullBytesTrue

/-- `LOT_FULL_TEXT_FALSE`: a byte string of R13 that a display write may carry (R45). Log entry 20. -/
def Params.lotFullTextFalse (p : Params) : Bytes := Machine.displayable p p.lotFullBytesFalse

end Sys2Proof
end

