-- ==== Sys2Proof/Machine/Encoder.lean ====
section
/-! DEFINITION. The wire layout of a frame and the frame encoder (30_encoding R70 to R80, 41_encoder R110 to R116). -/

namespace Sys2Proof.Machine

/-- `START_MARKER` (R7, R71). -/
def startMarker : Byte := 0xAA

/-- Event ids of R80. -/
def displayId : Byte := 0x01
/-- Event ids of R80. -/
def setactId : Byte := 0x02
/-- Event ids of R80. -/
def cardetId : Byte := 0x03
/-- Event ids of R80. -/
def plateId : Byte := 0x04
/-- Event ids of R80. -/
def lotfullId : Byte := 0x05

/-- `OK_REPLY`, the ASCII bytes of `OK` and a line feed (R76). -/
def okReply : Bytes := [0x4F, 0x4B, 0x0A]

/-- `ERR_REPLY`, the ASCII bytes of `ERR` and a line feed (R76). -/
def errReply : Bytes := [0x45, 0x52, 0x52, 0x0A]

/-- The covered region of R75: length, event id, payload. -/
def coveredRegion (eventId : Byte) (payload : Bytes) : Bytes :=
  toByte (payload.length + 1) :: eventId :: payload

/-- A frame laid out as in R70, with the checksum byte given. -/
def frameBytes (eventId : Byte) (payload : Bytes) (checksum : Byte) : Bytes :=
  startMarker :: (coveredRegion eventId payload ++ [checksum])

/-- The result of `ENCODE` (R110). -/
inductive EncodeResult where
  | ok (frame : Bytes)
  | tooLong (n : Nat)
deriving DecidableEq, Repr

/-- `ENCODE(event_id, payload)` with buffers of `cap` bytes (R110 to R112); the id is not checked. -/
def encodeEvent (cap : Nat) (eventId : Byte) (payload : Bytes) : EncodeResult :=
  if payload.length > cap - 4 ∨ payload.length > 254 then .tooLong payload.length
  else .ok (frameBytes eventId payload (crc8 (coveredRegion eventId payload)))

/-- `bool_byte` of R79. UNVERIFIED for false (unsafe, D9): log entry 14. -/
def boolByte (v : Bool) : Byte := if v then 0x01 else 0x00

/-- `ENCODE_CARDETECTED(v)` (R116). -/
def encodeCarDetected (cap : Nat) (v : Bool) : EncodeResult :=
  encodeEvent cap cardetId [boolByte v]

end Sys2Proof.Machine
end

