-- ==== Sys2Proof/Syntax.lean ====
section
/-! DEFINITION. The instructions: one constructor per row of spec/opcode_table.json. An instruction is a decoded
frame (30_encoding R70): the row is selected by the event id and the checksum comparison, the operands are the
payload bytes. -/

namespace Sys2Proof

/-- One decoded frame, by its row of the opcode table. `payload` is the `L - 1` payload bytes in wire order (R74). -/
inductive Instr where
  /-- `DISPLAY`, event id `0x01`: the text is the whole payload (R81, R144). -/
  | display (payload : Bytes)
  /-- `SETACT`, event id `0x02`: the angle is payload byte 0 (R82, R145). -/
  | setact (payload : Bytes)
  /-- `CARDET`, event id `0x03`: no operand is read inbound (R146). -/
  | cardet (payload : Bytes)
  /-- `PLATE`, event id `0x04`: the flag is payload byte 0 (R83, R147). -/
  | plate (payload : Bytes)
  /-- `LOTFULL`, event id `0x05`: the flag is payload byte 0 (R83, R148). -/
  | lotfull (payload : Bytes)
  /-- `UNKNOWN_00`, event id `0x00` (R149). -/
  | unknown00 (payload : Bytes)
  /-- `UNKNOWN_06_07`: `low` is bit 0 of the event id (R149). -/
  | unknown06to07 (low : BitVec 1) (payload : Bytes)
  /-- `UNKNOWN_08_0F`: `low` is bits 2..0 of the event id (R149). -/
  | unknown08to0F (low : BitVec 3) (payload : Bytes)
  /-- `UNKNOWN_10_1F`: `low` is bits 3..0 of the event id (R149). -/
  | unknown10to1F (low : BitVec 4) (payload : Bytes)
  /-- `UNKNOWN_20_3F`: `low` is bits 4..0 of the event id (R149). -/
  | unknown20to3F (low : BitVec 5) (payload : Bytes)
  /-- `UNKNOWN_40_7F`: `low` is bits 5..0 of the event id (R149). -/
  | unknown40to7F (low : BitVec 6) (payload : Bytes)
  /-- `UNKNOWN_80_FF`: `low` is bits 6..0 of the event id (R149). -/
  | unknown80toFF (low : BitVec 7) (payload : Bytes)
  /-- `INVALID_FRAME`: any event id, with a received checksum that differs from the computed one (R142). -/
  | invalidFrame (eventId : Byte) (payload : Bytes) (checksumRx checksumCalc : Byte)
deriving DecidableEq, Repr

end Sys2Proof
end

