-- ==== Sys2Proof/WellFormed.lean ====
section
/-! DEFINITION. Which instructions are well-formed: the frames that fit buffers of `cap` bytes (30_encoding R78), with
the checksum fields of an invalid frame as R75 and R142 make them. -/

namespace Sys2Proof

/-- The payload operand of an instruction. -/
def payloadOf : Instr → Bytes
  | .display p => p
  | .setact p => p
  | .cardet p => p
  | .plate p => p
  | .lotfull p => p
  | .unknown00 p => p
  | .unknown06to07 _ p => p
  | .unknown08to0F _ p => p
  | .unknown10to1F _ p => p
  | .unknown20to3F _ p => p
  | .unknown40to7F _ p => p
  | .unknown80toFF _ p => p
  | .invalidFrame _ p _ _ => p

/-- `payload_size <= min(CAPACITY - 4, 254)`, in a buffer that holds at least the four bytes of framing (R78). -/
def payloadFits (cap : Nat) (p : Bytes) : Bool :=
  decide (p.length + 4 ≤ cap) && decide (p.length ≤ 254)

/-- The checksum fields of an invalid frame: the computed one is the CRC of the covered region, the received one
differs from it (R75, R128, R142). -/
def checksumsAreInvalid (eventId : Byte) (p : Bytes) (rx computed : Byte) : Bool :=
  computed == Machine.crc8 (Machine.coveredRegion eventId p) && !Machine.frameValid rx computed

/-- Well-formed for buffers of `cap` bytes. -/
def wellFormed (cap : Nat) : Instr → Bool
  | .display p => payloadFits cap p
  | .setact p => payloadFits cap p
  | .cardet p => payloadFits cap p
  | .plate p => payloadFits cap p
  | .lotfull p => payloadFits cap p
  | .unknown00 p => payloadFits cap p
  | .unknown06to07 _ p => payloadFits cap p
  | .unknown08to0F _ p => payloadFits cap p
  | .unknown10to1F _ p => payloadFits cap p
  | .unknown20to3F _ p => payloadFits cap p
  | .unknown40to7F _ p => payloadFits cap p
  | .unknown80toFF _ p => payloadFits cap p
  | .invalidFrame id p rx computed => payloadFits cap p && checksumsAreInvalid id p rx computed

end Sys2Proof
end

