-- ==== Sys2Proof/Decode.lean ====
section
/-! DEFINITION. The decoder of whole frames, total on any bytes and rejecting by name, then the encoder
(30_encoding R70 to R88, opcode_table.json). -/

namespace Sys2Proof

/-- The decoded frame record (10_state R28). It is transient: it lives inside the step that completes a frame. Its
`valid` flag is `Machine.frameValid checksumRx checksumCalc`. -/
structure Frame where
  eventId : Byte
  payload : Bytes
  checksumRx : Byte
  checksumCalc : Byte
deriving DecidableEq, Repr

/-- Why a byte sequence is not a frame. -/
inductive DecodeError where
  /-- The first byte is not the start marker (R71, R122). -/
  | noStartMarker
  /-- The bytes end before the frame does (R77, R131). -/
  | truncated
  /-- The declared length does not fit the buffers (R88, R124). -/
  | overCapacity
  /-- The declared length is 0 (R88, R125). -/
  | lengthZero
deriving DecidableEq, Repr

/-- The rows of the opcode table that an event id selects: mask, match and mnemonic. -/
def opcodeRows : List (Byte × Byte × String) :=
  [(0xFF, 0x01, "DISPLAY"), (0xFF, 0x02, "SETACT"), (0xFF, 0x03, "CARDET"), (0xFF, 0x04, "PLATE"),
   (0xFF, 0x05, "LOTFULL"), (0xFF, 0x00, "UNKNOWN_00"), (0xFE, 0x06, "UNKNOWN_06_07"), (0xF8, 0x08, "UNKNOWN_08_0F"),
   (0xF0, 0x10, "UNKNOWN_10_1F"), (0xE0, 0x20, "UNKNOWN_20_3F"), (0xC0, 0x40, "UNKNOWN_40_7F"),
   (0x80, 0x80, "UNKNOWN_80_FF")]

/-- The mnemonic of an instruction's row. -/
def mnemonicOf : Instr → String
  | .display _ => "DISPLAY"
  | .setact _ => "SETACT"
  | .cardet _ => "CARDET"
  | .plate _ => "PLATE"
  | .lotfull _ => "LOTFULL"
  | .unknown00 _ => "UNKNOWN_00"
  | .unknown06to07 _ _ => "UNKNOWN_06_07"
  | .unknown08to0F _ _ => "UNKNOWN_08_0F"
  | .unknown10to1F _ _ => "UNKNOWN_10_1F"
  | .unknown20to3F _ _ => "UNKNOWN_20_3F"
  | .unknown40to7F _ _ => "UNKNOWN_40_7F"
  | .unknown80toFF _ _ => "UNKNOWN_80_FF"
  | .invalidFrame _ _ _ _ => "INVALID_FRAME"

/-- The instruction of a valid frame, by its event id (R80, R86 and the masks of opcode_table.json). Every one of
the 256 ids has a row (R73). -/
def eventInstr (id : Byte) (p : Bytes) : Instr :=
  if id = Machine.displayId then .display p
  else if id = Machine.setactId then .setact p
  else if id = Machine.cardetId then .cardet p
  else if id = Machine.plateId then .plate p
  else if id = Machine.lotfullId then .lotfull p
  else if id = 0x00 then .unknown00 p
  else if id &&& 0xFE = 0x06 then .unknown06to07 (id.setWidth 1) p
  else if id &&& 0xF8 = 0x08 then .unknown08to0F (id.setWidth 3) p
  else if id &&& 0xF0 = 0x10 then .unknown10to1F (id.setWidth 4) p
  else if id &&& 0xE0 = 0x20 then .unknown20to3F (id.setWidth 5) p
  else if id &&& 0xC0 = 0x40 then .unknown40to7F (id.setWidth 6) p
  else .unknown80toFF (id.setWidth 7) p

/-- The instruction of a decoded frame: the validity gate of R141 first, then the event id. -/
def frameInstr (f : Frame) : Instr :=
  if Machine.frameValid f.checksumRx f.checksumCalc then eventInstr f.eventId f.payload
  else .invalidFrame f.eventId f.payload f.checksumRx f.checksumCalc

/-- The bytes after an accepted length byte `len` (R127): event id, `len - 1` payload bytes, checksum. -/
def decodeBody (len : Byte) : Bytes → Except DecodeError (Instr × Bytes)
  | [] => .error .truncated
  | id :: tail =>
    match tail.drop (len.toNat - 1) with
    | [] => .error .truncated
    | ck :: rest =>
      let p := tail.take (len.toNat - 1)
      .ok (frameInstr { eventId := id, payload := p, checksumRx := ck,
                        checksumCalc := Machine.crc8 (len :: id :: p) }, rest)

/-- Decode the frame at the front of a byte sequence for buffers of `cap` bytes, and give the bytes after it. -/
def decode (cap : Nat) : Bytes → Except DecodeError (Instr × Bytes)
  | [] => .error .truncated
  | m :: rest =>
    if m ≠ Machine.startMarker then .error .noStartMarker
    else match rest with
      | [] => .error .truncated
      | len :: body =>
        if len.toNat + 3 > cap then .error .overCapacity
        else if len = 0 then .error .lengthZero
        else decodeBody len body

/-- The event id of an instruction (R80; the fixed bits of its row and its `low` field). -/
def eventIdOf : Instr → Byte
  | .display _ => 0x01
  | .setact _ => 0x02
  | .cardet _ => 0x03
  | .plate _ => 0x04
  | .lotfull _ => 0x05
  | .unknown00 _ => 0x00
  | .unknown06to07 low _ => 0x06 ||| low.setWidth 8
  | .unknown08to0F low _ => 0x08 ||| low.setWidth 8
  | .unknown10to1F low _ => 0x10 ||| low.setWidth 8
  | .unknown20to3F low _ => 0x20 ||| low.setWidth 8
  | .unknown40to7F low _ => 0x40 ||| low.setWidth 8
  | .unknown80toFF low _ => 0x80 ||| low.setWidth 8
  | .invalidFrame id _ _ _ => id

/-- The checksum byte an instruction's frame carries: the CRC of the covered region (R75), or the received byte of an
invalid frame. -/
def checksumOf : Instr → Byte
  | .display p => Machine.crc8 (Machine.coveredRegion 0x01 p)
  | .setact p => Machine.crc8 (Machine.coveredRegion 0x02 p)
  | .cardet p => Machine.crc8 (Machine.coveredRegion 0x03 p)
  | .plate p => Machine.crc8 (Machine.coveredRegion 0x04 p)
  | .lotfull p => Machine.crc8 (Machine.coveredRegion 0x05 p)
  | .unknown00 p => Machine.crc8 (Machine.coveredRegion 0x00 p)
  | .unknown06to07 low p => Machine.crc8 (Machine.coveredRegion (0x06 ||| low.setWidth 8) p)
  | .unknown08to0F low p => Machine.crc8 (Machine.coveredRegion (0x08 ||| low.setWidth 8) p)
  | .unknown10to1F low p => Machine.crc8 (Machine.coveredRegion (0x10 ||| low.setWidth 8) p)
  | .unknown20to3F low p => Machine.crc8 (Machine.coveredRegion (0x20 ||| low.setWidth 8) p)
  | .unknown40to7F low p => Machine.crc8 (Machine.coveredRegion (0x40 ||| low.setWidth 8) p)
  | .unknown80toFF low p => Machine.crc8 (Machine.coveredRegion (0x80 ||| low.setWidth 8) p)
  | .invalidFrame _ _ rx _ => rx

/-- The bytes of an instruction's frame, in wire order (R70). -/
def encode (i : Instr) : Bytes :=
  Machine.frameBytes (eventIdOf i) (payloadOf i) (checksumOf i)

/-- The payload that an opcode-table word gives: the bytes of `w` above the event id, and one operand byte of zeros
where the table gives none (log entry 8). -/
def tablePayload (nbits w : Nat) : Bytes :=
  (List.range (max 1 (nbits / 8 - 1))).map fun k => toByte (w >>> (8 * (k + 1)))

/-- The frame of an opcode-table word: byte 0 of `w` is the event id; start marker, length and checksum are the
framing that R90 computes. -/
def tableFrame (nbits w : Nat) : Machine.EncodeResult :=
  Machine.encodeEvent Machine.instanceParams.capacity (toByte w) (tablePayload nbits w)

/-- The instruction the decoder reads from an opcode-table word; `none` where the encoder or the decoder refuses. -/
def decodeTableWord (nbits w : Nat) : Option Instr :=
  match tableFrame nbits w with
  | .tooLong _ => none
  | .ok frame =>
    match decode Machine.instanceParams.capacity frame with
    | .ok (i, _) => some i
    | .error _ => none

end Sys2Proof
end

