-- ==== Sys2Proof/Machine/Operands.lean ====
section
/-! DEFINITION. The operand forms of the events (30_encoding R81 to R85). -/

namespace Sys2Proof.Machine

/-- `text` of `DISPLAY`: all payload bytes in wire order, raw (R81). UNVERIFIED (unsafe, D14): log entry 16. -/
def textOperand (payload : Bytes) : Bytes := payload

/-- Payload byte 0, or `none` where the payload is empty (R84). Bytes after it are not read (R85; UNVERIFIED, unsafe,
D11: log entry 16). -/
def argByte (payload : Bytes) : Option Byte := payload.head?

/-- `bool_of` of R83. -/
def boolOf (m : BoolDecode) (b : Byte) : Bool :=
  match m with
  | .nonzero => b != 0x00
  | .eqOne => b == 0x01

/-- The angle operand clamped to `[0, 180]` (R82, R145): extended to 16 bits, then the lesser of it and
`ANGLE_MAX`. -/
def clampAngle (b : Byte) : Byte :=
  let a := zext16 b
  (if a ≤ angleMax then a else angleMax).setWidth 8

/-- An angle parameter as the 8-bit value the actuator takes (R43). -/
def angleByte (a : Fin 181) : Byte := toByte a.val

/-- The angle for `LicensePlateStatus(flag)` (R147). -/
def plateAngle (p : Params) (flag : Bool) : Byte :=
  if flag then angleByte p.openAngle else angleByte p.closedAngle

/-- The text for `LotFull(flag)` (R148). -/
def lotFullText (p : Params) (flag : Bool) : Bytes :=
  if flag then p.lotFullTextTrue else p.lotFullTextFalse

end Sys2Proof.Machine
end

