-- ==== Sys2Proof/Machine/State.lean ====
section
/-! DEFINITION. The state of the block (10_state R21 to R48), its inputs, its output labels, how a step can stop, and
the state after reset (70_reset_and_hazards R200 to R203). -/

namespace Sys2Proof.Machine

/-- The two agents (R6, R196); their names are carried in `TX` labels. -/
inductive Agent where
  | rx
  | main
deriving DecidableEq, Repr

/-- `dec_state` (R23). The fourth code of a 2-bit register has no value here (R199 b). -/
inductive DecState where
  | idle
  | readingLength
  | readingPayload
deriving DecidableEq, Repr

/-- The decoder session, owned by the RX agent (R23 to R27). -/
structure Decoder where
  /-- `dec_state` (R23). -/
  state : DecState
  /-- `buf[0] .. buf[buf_len-1]` (R25): exactly the elements that have a value, so `buf_len` is the length. -/
  buf : Bytes
  /-- `remaining` (R24). -/
  remaining : Nat
  /-- `expected_len` (R26). -/
  expectedLen : Nat
  /-- `crc_acc` (R27). -/
  crcAcc : Byte
deriving DecidableEq, Repr

/-- The presence state, owned by the MAIN agent (R32 to R36). -/
structure Presence where
  /-- `last_raw` (R33). -/
  lastRaw : Bool
  /-- `debounced` (R34). -/
  debounced : Bool
  /-- `last_transition_time` (R35). -/
  lastTransitionTime : Nat
  /-- `last_periodic_send_time` (R36). -/
  lastPeriodicSendTime : Nat
deriving DecidableEq, Repr

/-- An error event with the information it records (R180). -/
inductive ErrEvent where
  /-- `E_OVERFLOW(len)` (R124, R181). -/
  | overflow (len : Byte)
  /-- `E_BAD_LENGTH(len)` (R125, R182). -/
  | badLength (len : Byte)
  /-- `E_CHECKSUM(checksum_rx, checksum_calc)` (R142, R183). -/
  | checksum (rx computed : Byte)
  /-- `E_TX_FAIL(agent, message, k)` (R57, R184). -/
  | txFail (agent : Agent) (message : Bytes) (k : Nat)
  /-- `E_ENCODE_TOO_LONG(n)` (R111, R185). -/
  | encodeTooLong (n : Nat)
deriving DecidableEq, Repr

/-- An output label (R47). -/
inductive Label where
  /-- `TX(agent, bytes, outcome)`. -/
  | tx (agent : Agent) (message : Bytes) (outcome : SendOutcome)
  /-- `ACT(a)`, an 8-bit angle (R43). -/
  | act (angle : Byte)
  /-- `DISP(t)` (R45). -/
  | disp (text : Bytes)
  /-- `ERR_EVENT(code, info)`. -/
  | err (event : ErrEvent)
deriving DecidableEq, Repr

/-- One move of the environment (R5, R40, R41, R46). -/
inductive InputEvent where
  /-- The link delivers a byte to the RX agent (R40). -/
  | rx (b : Byte)
  /-- The main loop samples clock and sensor (R41). -/
  | tick (now : Nat) (raw : Bool)
  /-- The MAIN agent is scheduled to go on with the tick it is in (R64, R189). -/
  | resume
  /-- Power-on (R46, R200). -/
  | reset
deriving DecidableEq, Repr

/-- Reasons the machine stops with a fault. They are the model faults of R199, signs that a model has left its rules;
under the invariants of R39 no step raises one. Stopping is safe. -/
inductive Fault where
  /-- R199 (a): completing a frame read `buf[index]`, which has no value. Raised by `readBuf` and `readRange`. Safe. -/
  | bufferReadNoValue (index : Nat)
  /-- R199 (c): a buffer write at `index >= CAPACITY`. Raised by `pushByte`. Safe. -/
  | bufferWriteBeyond (index : Nat)
  /-- A byte was counted in `ReadingPayload` with `remaining = 0`, which R39 (c) excludes and R126 gives no value.
  Raised by `rxPayload`. Safe; log entry 11. -/
  | remainingUnderflow
deriving DecidableEq, Repr

/-- Reasons the machine refuses a step. -/
inductive Refusal where
  /-- An instruction with no meaning yet, by its mnemonic; raised by `exec` only. Safe. -/
  | notModelled (mnemonic : String)
  /-- A tick whose timestamp goes backwards, with unbounded timestamps: the environment's duty is broken and the model
  refuses it (R44, D20, I15). Raised by `tick`. Safe; log entry 9. -/
  | clockWentBack (now : Nat)
deriving DecidableEq, Repr

/-- The machine. `dec` and `pres` are the block's state; the other fields are the model's own (INVENTORY.md). -/
structure State where
  /-- The parameter instance. No step writes it (R203). Log entry 1. -/
  params : Params
  /-- The decoder session (R23 to R27). -/
  dec : Decoder
  /-- The presence state (R32 to R36). -/
  pres : Presence
  /-- The heartbeat `Send` of the present tick is still to be called (R64, R165). Log entry 7. -/
  midTick : Bool
  /-- The timestamp of the last tick (R44, D20). Log entry 9. -/
  lastNow : Nat
  /-- The environment's moves still to come, in order (R48, R61, D33). Log entry 6. -/
  inputs : List InputEvent
  /-- Link outcomes settled in advance, in the order of the `Send` calls (R57). Log entry 5. -/
  answers : List SendOutcome
  /-- How many free values have been drawn. Log entries 4 and 5. -/
  draws : Nat
  /-- The output labels so far, oldest first (R47, R215). -/
  out : List Label
deriving DecidableEq, Repr

/-- The decoder after reset (R201). -/
def decoderReset : Decoder where
  state := .idle
  buf := []
  remaining := 0
  expectedLen := 0
  crcAcc := 0x00

/-- The presence state after reset (R202). -/
def presenceReset (p : Params) : Presence where
  lastRaw := p.initPresence
  debounced := p.initPresence
  lastTransitionTime := stamp p p.tReset
  lastPeriodicSendTime := stamp p p.tReset

/-- The machine right after power-on with the parameter instance `p`, and nothing from the environment yet
(R200 to R203). -/
def State.resetWith (p : Params) : State where
  params := p
  dec := decoderReset
  pres := presenceReset p
  midTick := false
  lastNow := stamp p p.tReset
  inputs := []
  answers := []
  draws := 0
  out := []

/-- The machine right after reset. -/
def State.reset : State := State.resetWith instanceParams

end Sys2Proof.Machine
end

