-- ==== Sys2Proof/Machine/Ops.lean ====
section
/-! DEFINITION. The shared operations: labels, error events, the transmit primitive, collaborator writes, the session
buffer, and power-on (00_scope R20, 20_memory R57, 10_state R25, 43_dispatcher R152, 60_exceptions R180). -/

namespace Sys2Proof.Machine

/-- Append output labels, in order (R47). -/
def emit (ls : List Label) (s : State) : State := { s with out := s.out ++ ls }

/-- Replace the decoder session. -/
def setDec (d : Decoder) (s : State) : State := { s with dec := d }

/-- `raise E(info)`: record the error event in the step's labels, and nothing else (R20, R180). This is the block's
taking of an exception: it saves no state, moves no control and needs no return (R186, R190, R191). -/
def raise (e : ErrEvent) (s : State) : State := emit [.err e] s

/-- The code of an error event (R180). -/
def errCode : ErrEvent → Nat
  | .overflow _ => 1
  | .badLength _ => 2
  | .checksum _ _ => 3
  | .txFail _ _ _ => 4
  | .encodeTooLong _ => 5

/-- The 2-bit code of a decoder state (R23, D31). -/
def decStateCode : DecState → BitVec 2
  | .idle => 0b00
  | .readingLength => 0b01
  | .readingPayload => 0b10

/-- The decoder state of a 2-bit code; `0b11` has none (R23, R199 b). -/
def decStateOfCode (c : BitVec 2) : Option DecState :=
  if c = 0b00 then some .idle
  else if c = 0b01 then some .readingLength
  else if c = 0b10 then some .readingPayload
  else none

/-! ### The transmit primitive -/

/-- A drawn outcome as an outcome of a message of `n` bytes: a failed send puts a strict prefix on the wire (R57). -/
def limitOutcome (n : Nat) : SendOutcome → SendOutcome
  | .sent => .sent
  | .failed k => .failed (k % n)

/-- The outcome of the next `Send` of an `n`-byte message: the environment's next answer, or a free value where none
is settled (R57). Log entry 5. -/
def nextOutcome (s : State) (n : Nat) : SendOutcome :=
  limitOutcome n (s.answers.head?.getD (Config.linkAnswer s.draws))

/-- The state once that outcome is drawn. -/
def afterDraw (s : State) : State :=
  match s.answers with
  | _ :: rest => { s with answers := rest }
  | [] => { s with draws := s.draws + 1 }

/-- The labels of one `Send`: the transmission, then `E_TX_FAIL` if it failed (R57, R184, R187). -/
def sendLabels (a : Agent) (m : Bytes) : SendOutcome → List Label
  | .sent => [.tx a m .sent]
  | .failed k => [.tx a m (.failed k), .err (.txFail a m k)]

/-- `Send(agent, m)` (R57): the whole message is offered once; the step goes on after either outcome. -/
def send (a : Agent) (m : Bytes) (s : State) : State :=
  emit (sendLabels a m (nextOutcome s m.length)) (afterDraw s)

/-! ### Collaborator writes -/

/-- `ActSet(a)` (R20, R43). -/
def actSet (a : Byte) (s : State) : State := emit [.act a] s

/-- `DispShow(t)` (R20, R45). -/
def dispShow (t : Bytes) (s : State) : State := emit [.disp t] s

/-- `EMPTY_ARG(ActSet)` (R152). -/
def emptyArgAct (s : State) : State :=
  match s.params.emptyArgPolicy with
  | .ignore => s
  | .draw =>
    match Config.drawnAngle s.draws with
    | none => { s with draws := s.draws + 1 }
    | some a => actSet (angleByte a) { s with draws := s.draws + 1 }

/-- `EMPTY_ARG(DispShow)` (R152); a drawn text has at most `min(CAPACITY - 4, 254)` bytes. -/
def emptyArgDisp (s : State) : State :=
  match s.params.emptyArgPolicy with
  | .ignore => s
  | .draw =>
    match Config.drawnText s.draws with
    | none => { s with draws := s.draws + 1 }
    | some t => dispShow (displayable s.params t) { s with draws := s.draws + 1 }

/-! ### The session buffer -/

/-- `buffer.push(b)` (R25); a write at an index at or above `CAPACITY` is a model fault (R199 c). -/
def pushByte (p : Params) (d : Decoder) (b : Byte) : Except Fault Decoder :=
  if d.buf.length < p.capacity then .ok { d with buf := d.buf ++ [b] }
  else .error (.bufferWriteBeyond d.buf.length)

/-- `buf[i]`; an element with no value is a model fault (R25, R199 a). -/
def readBuf (buf : Bytes) (i : Nat) : Except Fault Byte :=
  match buf[i]? with
  | some b => .ok b
  | none => .error (.bufferReadNoValue i)

/-- `buf[lo .. hi)`; every element of the slice must have a value (R19, R25, R199 a). -/
def readRange (buf : Bytes) (lo hi : Nat) : Except Fault Bytes :=
  if hi ≤ buf.length then .ok ((buf.take hi).drop lo)
  else .error (.bufferReadNoValue buf.length)

/-- Completion and split (R127): the frame record of a full buffer. -/
def splitFrame (d : Decoder) : Except Fault Frame :=
  match readBuf d.buf 1, readBuf d.buf 2, readBuf d.buf (d.buf.length - 1) with
  | .ok len, .ok id, .ok rx =>
    match readRange d.buf 3 (len.toNat + 2) with
    | .ok payload => .ok { eventId := id, payload := payload, checksumRx := rx, checksumCalc := d.crcAcc }
    | .error f => .error f
  | .error f, _, _ => .error f
  | .ok _, .error f, _ => .error f
  | .ok _, .ok _, .error f => .error f

/-- The decoder once a length byte is turned away (R124, R125). -/
def dropFrame (d : Decoder) : Decoder := { d with state := .idle, buf := [] }

/-- The decoder once a frame is emitted (R129). `crc_acc` keeps its value. -/
def endSession (d : Decoder) : Decoder :=
  { d with state := .idle, buf := [], remaining := 0, expectedLen := 0 }

/-! ### Power-on and placing an instruction -/

/-- The reset event (R200 to R203): the block's state takes its reset values and no label is produced. The parameters,
the rest of the input script and the labels so far stay. Log entry 10. -/
def powerOn (s : State) : State :=
  { s with
    dec := decoderReset
    pres := presenceReset s.params
    midTick := false
    lastNow := stamp s.params s.params.tReset }

/-- The decoder that has taken every byte of `frame` but the last one. -/
def decoderBeforeLast (frame : Bytes) : Decoder where
  state := .readingPayload
  buf := frame.dropLast
  remaining := 1
  expectedLen := frame.length
  crcAcc := crc8 (frame.dropLast.drop 1)

/-- The machine about to take the last byte of `frame`: the next step completes that frame. Log entry 8. -/
def placeFrame (frame : Bytes) (s : State) : State :=
  { s with
    dec := decoderBeforeLast frame
    inputs := .rx (frame.getLastD 0) :: s.inputs }

end Sys2Proof.Machine
end

