-- ==== Sys2Proof/Machine/Presence.lean ====
section
/-! DEFINITION. The presence monitor: one tick is one step of the MAIN agent (44_presence R160 to R167). -/

namespace Sys2Proof.Machine

/-- Raw-transition capture (R162). -/
def capture (t : Nat) (raw : Bool) (pr : Presence) : Presence :=
  if raw ≠ pr.lastRaw then { pr with lastRaw := raw, lastTransitionTime := t } else pr

/-- The condition of R163, on the state after capture. -/
def changeDue (p : Params) (t : Nat) (raw : Bool) (pr : Presence) : Bool :=
  raw != pr.debounced && decide (debounceInterval ≤ elapsed p t pr.lastTransitionTime)

/-- The state write of R163. -/
def debounce (p : Params) (t : Nat) (raw : Bool) (pr : Presence) : Presence :=
  if changeDue p t raw pr then { pr with debounced := raw } else pr

/-- The condition of R164. -/
def heartbeatDue (p : Params) (t : Nat) (pr : Presence) : Bool :=
  decide (heartbeatInterval ≤ elapsed p t pr.lastPeriodicSendTime)

/-- The state write of R164: the timer reloads with the time of this send. -/
def reload (p : Params) (t : Nat) (pr : Presence) : Presence :=
  if heartbeatDue p t pr then { pr with lastPeriodicSendTime := t } else pr

/-- The presence state after a tick: R162, then R163, then R164 (R165). UNVERIFIED order (unsafe, D17): log
entry 15. -/
def tickPresence (p : Params) (t : Nat) (raw : Bool) (pr : Presence) : Presence :=
  reload p t (debounce p t raw (capture t raw pr))

/-- The tick sends a change event (R163). -/
def changeFires (p : Params) (t : Nat) (raw : Bool) (pr : Presence) : Bool :=
  changeDue p t raw (capture t raw pr)

/-- The tick sends a heartbeat (R164). -/
def heartbeatFires (p : Params) (t : Nat) (raw : Bool) (pr : Presence) : Bool :=
  heartbeatDue p t (debounce p t raw (capture t raw pr))

/-- Build the `CarDetected(v)` frame and hand it to one `Send` (R113, R166). -/
def sendCarDetected (v : Bool) (s : State) : State :=
  match encodeCarDetected s.params.capacity v with
  | .ok frame => send .main frame s
  | .tooLong n => raise (.encodeTooLong n) s

/-- The environment's clock has not gone backwards. A finite `TIME_WIDTH` takes timestamps as they come
(R44, R161, D20, I15). Log entry 9. -/
def clockOk (s : State) (t : Nat) : Bool :=
  s.params.timeWidth.isSome ||
    (decide (s.lastNow ≤ t) && decide (s.pres.lastTransitionTime ≤ t) && decide (s.pres.lastPeriodicSendTime ≤ t))

/-- The state writes of a tick, all of them local to the MAIN agent (R67). -/
def tickWrites (t : Nat) (raw : Bool) (s : State) : State :=
  { s with pres := tickPresence s.params t raw s.pres, lastNow := t }

/-- A tick at timestamp `t` (R162 to R165). Where both triggers fire, the change event is sent now and the heartbeat
at the MAIN agent's next turn, so that an RX step may fall between the two (R64). Log entry 7. -/
def tickBody (t : Nat) (raw : Bool) (s : State) : State :=
  match changeFires s.params t raw s.pres, heartbeatFires s.params t raw s.pres with
  | false, false => tickWrites t raw s
  | true, true =>
    { sendCarDetected (tickPresence s.params t raw s.pres).debounced (tickWrites t raw s) with midTick := true }
  | _, _ => sendCarDetected (tickPresence s.params t raw s.pres).debounced (tickWrites t raw s)

/-- `TICK(now, raw)` (R160). -/
def tick (now : Nat) (raw : Bool) (s : State) : Host.Outcome State Fault Refusal :=
  if clockOk s (stamp s.params now) then .next (tickBody (stamp s.params now) raw s)
  else .refused (.clockWentBack now)

/-- The second `Send` of a tick in which both triggers fired (R164, R165). -/
def finishTick (s : State) : State :=
  sendCarDetected s.pres.debounced { s with midTick := false }

end Sys2Proof.Machine
end

