-- ==== Sys2Proof/Machine/Events.lean ====
section
/-! DEFINITION. The meanings of the five events (43_dispatcher R143 to R148). A meaning is the dispatch of one valid
frame: the OK reply, then the action, whatever the reply's outcome (R143, R151). -/

namespace Sys2Proof.Machine

/-- The OK reply of a valid frame (R143). -/
def replyOk (s : State) : State := send .rx okReply s

/-- `DISPLAY` (R144). -/
def execDisplay (payload : Bytes) (s : State) : Host.Outcome State Fault Refusal :=
  .next (dispShow (textOperand payload) (replyOk s))

/-- `SETACT` (R145). -/
def execSetact (payload : Bytes) (s : State) : Host.Outcome State Fault Refusal :=
  match argByte payload with
  | none => .next (emptyArgAct (replyOk s))
  | some b => .next (actSet (clampAngle b) (replyOk s))

/-- `CARDET` (R146): acknowledged, no action inbound. -/
def execCardet (_payload : Bytes) (s : State) : Host.Outcome State Fault Refusal :=
  .next (replyOk s)

/-- `PLATE` (R147). -/
def execPlate (payload : Bytes) (s : State) : Host.Outcome State Fault Refusal :=
  match argByte payload with
  | none => .next (emptyArgAct (replyOk s))
  | some b => .next (actSet (plateAngle s.params (boolOf s.params.boolDecode b)) (replyOk s))

/-- `LOTFULL` (R148). -/
def execLotfull (payload : Bytes) (s : State) : Host.Outcome State Fault Refusal :=
  match argByte payload with
  | none => .next (emptyArgDisp (replyOk s))
  | some b => .next (dispShow (lotFullText s.params (boolOf s.params.boolDecode b)) (replyOk s))

end Sys2Proof.Machine
end

