-- ==== Sys2Proof/Machine/Unknown.lean ====
section
/-! DEFINITION. The meanings of frames with an unknown event id (43_dispatcher R149) and of invalid frames (R142). -/

namespace Sys2Proof.Machine

/-- An unknown event id is acknowledged and not acted upon (R86, R149). -/
def ackOnly (s : State) : State := replyOk s

/-- `UNKNOWN_00` (R149). -/
def execUnknown00 (_payload : Bytes) (s : State) : Host.Outcome State Fault Refusal :=
  .next (ackOnly s)

/-- `UNKNOWN_06_07` (R149). -/
def execUnknown06to07 (_low : BitVec 1) (_payload : Bytes) (s : State) : Host.Outcome State Fault Refusal :=
  .next (ackOnly s)

/-- `UNKNOWN_08_0F` (R149). -/
def execUnknown08to0F (_low : BitVec 3) (_payload : Bytes) (s : State) : Host.Outcome State Fault Refusal :=
  .next (ackOnly s)

/-- `UNKNOWN_10_1F` (R149). -/
def execUnknown10to1F (_low : BitVec 4) (_payload : Bytes) (s : State) : Host.Outcome State Fault Refusal :=
  .next (ackOnly s)

/-- `UNKNOWN_20_3F` (R149). -/
def execUnknown20to3F (_low : BitVec 5) (_payload : Bytes) (s : State) : Host.Outcome State Fault Refusal :=
  .next (ackOnly s)

/-- `UNKNOWN_40_7F` (R149). -/
def execUnknown40to7F (_low : BitVec 6) (_payload : Bytes) (s : State) : Host.Outcome State Fault Refusal :=
  .next (ackOnly s)

/-- `UNKNOWN_80_FF` (R149). -/
def execUnknown80toFF (_low : BitVec 7) (_payload : Bytes) (s : State) : Host.Outcome State Fault Refusal :=
  .next (ackOnly s)

/-- `INVALID_FRAME` (R142): `E_CHECKSUM`, the ERR reply, no action; id and payload are not read. -/
def execInvalidFrame (_eventId : Byte) (_payload : Bytes) (checksumRx checksumCalc : Byte) (s : State) :
    Host.Outcome State Fault Refusal :=
  .next (send .rx errReply (raise (.checksum checksumRx checksumCalc) s))

end Sys2Proof.Machine
end

