-- ==== Sys2Proof/Machine/Dispatch.lean ====
section
/-! DEFINITION. The event dispatcher (43_dispatcher R140): the meaning of every instruction, one arm per constructor. -/

namespace Sys2Proof.Machine

def exec (i : Instr) (s : State) : Host.Outcome State Fault Refusal :=
  match i with
  | .display payload => Sys2Proof.Machine.execDisplay payload s
  | .setact payload => Sys2Proof.Machine.execSetact payload s
  | .cardet payload => Sys2Proof.Machine.execCardet payload s
  | .plate payload => Sys2Proof.Machine.execPlate payload s
  | .lotfull payload => Sys2Proof.Machine.execLotfull payload s
  | .unknown00 payload => Sys2Proof.Machine.execUnknown00 payload s
  | .unknown06to07 low payload => Sys2Proof.Machine.execUnknown06to07 low payload s
  | .unknown08to0F low payload => Sys2Proof.Machine.execUnknown08to0F low payload s
  | .unknown10to1F low payload => Sys2Proof.Machine.execUnknown10to1F low payload s
  | .unknown20to3F low payload => Sys2Proof.Machine.execUnknown20to3F low payload s
  | .unknown40to7F low payload => Sys2Proof.Machine.execUnknown40to7F low payload s
  | .unknown80toFF low payload => Sys2Proof.Machine.execUnknown80toFF low payload s
  | .invalidFrame eventId payload rx computed => Sys2Proof.Machine.execInvalidFrame eventId payload rx computed s

end Sys2Proof.Machine
end

