-- ==== Sys2Proof/Machine/Receive.lean ====
section
/-! DEFINITION. The frame decoder: one received byte is one step of the RX agent (42_decoder R120 to R129). -/

namespace Sys2Proof.Machine

/-- `Idle` (R121, R122): the start marker opens a session, any other byte is discarded. -/
def rxIdle (b : Byte) (s : State) : Host.Outcome State Fault Refusal :=
  if b = startMarker then .next (setDec { s.dec with state := .readingLength, buf := [b] } s)
  else .next s

/-- The decoder that has accepted the length byte `len` (R123). -/
def acceptLength (d : Decoder) (len : Byte) : Decoder :=
  { d with
    state := .readingPayload
    remaining := len.toNat + 1
    expectedLen := len.toNat + 3
    crcAcc := crc8Step 0x00 len }

/-- `ReadingLength` (R123 to R125): the overflow guard, then length zero, then an accepted length. -/
def rxLength (b : Byte) (s : State) : Host.Outcome State Fault Refusal :=
  match pushByte s.params s.dec b with
  | .error f => .fault f
  | .ok d =>
    if b.toNat + 3 > s.params.capacity then .next (setDec (dropFrame d) (raise (.overflow b) s))
    else if b = 0x00 then .next (setDec (dropFrame d) (raise (.badLength b) s))
    else .next (setDec (acceptLength d b) s)

/-- Completion (R127 to R129): split the buffer, reset the session, and dispatch the frame in this same step. -/
def completeFrame (d : Decoder) (s : State) : Host.Outcome State Fault Refusal :=
  match splitFrame d with
  | .error f => .fault f
  | .ok frame => exec (frameInstr frame) (setDec (endSession d) s)

/-- `ReadingPayload` (R126): count the byte; while some remain it enters the checksum, and the last one completes the
frame. -/
def rxPayload (b : Byte) (s : State) : Host.Outcome State Fault Refusal :=
  match pushByte s.params s.dec b with
  | .error f => .fault f
  | .ok d =>
    match d.remaining with
    | 0 => .fault .remainingUnderflow
    | 1 => completeFrame { d with remaining := 0 } s
    | n + 2 => .next (setDec { d with remaining := n + 1, crcAcc := crc8Step d.crcAcc b } s)

/-- `RX_BYTE(b)` (R120). -/
def rxByte (b : Byte) (s : State) : Host.Outcome State Fault Refusal :=
  match s.dec.state with
  | .idle => rxIdle b s
  | .readingLength => rxLength b s
  | .readingPayload => rxPayload b s

end Sys2Proof.Machine
end

