-- ==== Sys2Proof/Machine/Step.lean ====
section
/-! DEFINITION. One step of the machine: the next move of the environment's script (00_scope R5, 20_memory R64). -/

namespace Sys2Proof.Machine

/-- One step. A byte is one RX step; a tick or a scheduling point is one MAIN step, and a tick that is still to make
its second `Send` makes it before the next one starts; with no input and nothing left to send the block stays as it
is (R37, R64, R120, R160, R200, R207, R215). -/
def step (s : State) : Host.Outcome State Fault Refusal :=
  match s.inputs with
  | [] => if s.midTick then .next (finishTick s) else .next s
  | .rx b :: rest => rxByte b { s with inputs := rest }
  | .tick now raw :: rest =>
    if s.midTick then .next (finishTick s) else tick now raw { s with inputs := rest }
  | .resume :: rest =>
    if s.midTick then .next (finishTick { s with inputs := rest }) else .next { s with inputs := rest }
  | .reset :: rest => .next (powerOn { s with inputs := rest })

/-- `s` with the frame of an opcode-table word placed so that the very next step completes it and runs its
instruction: the decoder has taken all but the last byte, and that byte is the next input (log entry 8). A word the
encoder refuses changes nothing. -/
def State.withFetchWord (s : State) (nbits w : Nat) : State :=
  match tableFrame nbits w with
  | .ok frame => placeFrame frame s
  | .tooLong _ => s

end Sys2Proof.Machine
end

