-- ==== Sys2Proof/Machine/Script.lean ====
section
/-! DEFINITION. The spec's notation for frames and streams, and its expansion to the environment's moves
(30_encoding R89, R90). -/

namespace Sys2Proof.Machine

/-- A line of the notation (R89). -/
inductive Line where
  /-- `FRAME id bytes`. -/
  | frame (id : Byte) (payload : Bytes)
  /-- `DISPLAY "text"`. -/
  | display (text : Bytes)
  /-- `SETACT n`. -/
  | setact (n : Byte)
  /-- `CARDET b`. -/
  | cardet (v : Bool)
  /-- `PLATE b`. -/
  | plate (v : Bool)
  /-- `LOTFULL b`. -/
  | lotfull (v : Bool)
  /-- `RAW bytes`: no framing. -/
  | raw (bytes : Bytes)
  /-- `TICK t raw`. -/
  | tick (now : Nat) (raw : Bool)
  /-- `RESET`. -/
  | reset
deriving DecidableEq, Repr

/-- The expansion of a framed form: `ENCODE(id, payload)`, or none where the payload does not fit (R90). -/
def expandFrame (cap : Nat) (id : Byte) (payload : Bytes) : Option (List InputEvent) :=
  match encodeEvent cap id payload with
  | .ok frame => some (frame.map .rx)
  | .tooLong _ => none

/-- The moves a line denotes, with buffers of `cap` bytes (R89, R90). -/
def expandLine (cap : Nat) : Line → Option (List InputEvent)
  | .frame id payload => expandFrame cap id payload
  | .display text => expandFrame cap displayId text
  | .setact n => expandFrame cap setactId [n]
  | .cardet v => expandFrame cap cardetId [boolByte v]
  | .plate v => expandFrame cap plateId [boolByte v]
  | .lotfull v => expandFrame cap lotfullId [boolByte v]
  | .raw bytes => some (bytes.map .rx)
  | .tick now raw => some [.tick now raw]
  | .reset => some [.reset]

/-- The moves of a script, or none where a line has no expansion. -/
def expandScript (cap : Nat) : List Line → Option (List InputEvent)
  | [] => some []
  | l :: ls =>
    match expandLine cap l, expandScript cap ls with
    | some es, some rest => some (es ++ rest)
    | _, _ => none

end Sys2Proof.Machine
end

