-- ==== Sys2Proof/Safety.lean ====
section
/-! DEFINITION. The terms claims are made in: the invariants of 10_state R39 and the register widths, legal output
labels, the bytes on the wire, and how a step may end. -/

namespace Sys2Proof.Machine

/-- The decoder invariants of R39 (b) and (c), with the register widths of R24 to R26. That a frame in flight began
with the start marker and declared at least an event id (R121, R125) is part of it. -/
abbrev DecoderInv (cap : Nat) (d : Decoder) : Prop :=
  d.buf.length ≤ cap ∧ d.remaining ≤ 256 ∧ d.expectedLen ≤ 258 ∧
  (d.state = .readingLength → d.buf = [startMarker]) ∧
  (d.state = .readingPayload →
    d.buf.getD 0 0 = startMarker ∧ 2 ≤ d.buf.length ∧ d.buf.getD 1 0 ≠ 0 ∧
    d.expectedLen = (d.buf.getD 1 0).toNat + 3 ∧ d.expectedLen ≤ cap ∧
    d.buf.length + d.remaining = d.expectedLen ∧ 1 ≤ d.remaining ∧ d.crcAcc = crc8 (d.buf.drop 1))

/-- Every time register holds a `TIME_WIDTH`-bit timestamp (R35, R36), and with unbounded timestamps none is later than
the last tick (R44). -/
abbrev TimesInv (s : State) : Prop :=
  stamp s.params s.lastNow = s.lastNow ∧
  stamp s.params s.pres.lastTransitionTime = s.pres.lastTransitionTime ∧
  stamp s.params s.pres.lastPeriodicSendTime = s.pres.lastPeriodicSendTime ∧
  (s.params.timeWidth = none →
    s.pres.lastTransitionTime ≤ s.lastNow ∧ s.pres.lastPeriodicSendTime ≤ s.lastNow)

/-- An outcome of an `n`-byte message: a failed send puts a strict prefix on the wire (R57). -/
def outcomeLegal (n : Nat) : SendOutcome → Bool
  | .sent => true
  | .failed k => decide (k < n)

/-- A label the block may produce: the RX agent sends replies and the MAIN agent `CarDetected` frames (R42, R56), an
angle is at most 180 (R43), a text has at most `min(CAPACITY - 4, 254)` bytes (R45), and the encoder never refuses
(R185). -/
def labelLegal (p : Params) : Label → Bool
  | .tx .rx m o => (m == okReply || m == errReply) && outcomeLegal m.length o
  | .tx .main m o =>
    (m == [0xAA, 0x02, 0x03, 0x01, 0xEE] || m == [0xAA, 0x02, 0x03, 0x00, 0xE9]) && outcomeLegal m.length o
  | .act a => decide (a.toNat ≤ 180)
  | .disp t => decide (t.length ≤ payloadLimit p.capacity)
  | .err (.overflow len) => decide (len.toNat + 3 > p.capacity)
  | .err (.badLength len) => len == 0x00
  | .err (.checksum rx computed) => rx != computed
  | .err (.txFail _ m k) => decide (k < m.length)
  | .err (.encodeTooLong _) => false

/-- The machine is inside its rules: decoder, time registers and every label so far. -/
abbrev Inv (s : State) : Prop :=
  DecoderInv s.params.capacity s.dec ∧ TimesInv s ∧ s.out.all (labelLegal s.params) = true

/-- A safe outcome of a step: no model fault (R199). -/
def isFault : Host.Outcome State Fault Refusal → Bool
  | .fault _ => true
  | .next _ => false
  | .refused _ => false

/-- The next move of the environment is a byte, so the next step is the RX agent's (R40, R120). -/
def byteNext (s : State) : Bool :=
  match s.inputs with
  | [] => false
  | .rx _ :: _ => true
  | .tick _ _ :: _ => false
  | .resume :: _ => false
  | .reset :: _ => false

/-- The outcome with its next state mapped; a stop stays as it is. -/
def mapNext (f : State → State) : Host.Outcome State Fault Refusal → Host.Outcome State Fault Refusal
  | .next t => .next (f t)
  | .fault r => .fault r
  | .refused r => .refused r

/-- `k` steps of the machine, stopping at the first fault or refusal. -/
def runFor : Nat → State → Host.Outcome State Fault Refusal
  | 0, s => .next s
  | k + 1, s =>
    match step s with
    | .next t => runFor k t
    | .fault r => .fault r
    | .refused r => .refused r

/-- The bytes a label put on the wire (R57). -/
def wireOf : Label → Bytes
  | .tx _ m .sent => m
  | .tx _ m (.failed k) => m.take k
  | .act _ => []
  | .disp _ => []
  | .err _ => []

/-- The bytes on the wire toward the host: whole messages, in label order (R62, R63). -/
def wireBytes (ls : List Label) : Bytes := (ls.map wireOf).flatten

/-- The label is a transmission. -/
def isTx : Label → Bool
  | .tx _ _ _ => true
  | .act _ => false
  | .disp _ => false
  | .err _ => false

/-- The label is a collaborator write. -/
def isWrite : Label → Bool
  | .act _ => true
  | .disp _ => true
  | .tx _ _ _ => false
  | .err _ => false

/-- Everything but the labels and the draws is as before: the frame of a dispatch (R140, R153). -/
abbrev SameBlock (s t : State) : Prop :=
  t.params = s.params ∧ t.dec = s.dec ∧ t.pres = s.pres ∧ t.midTick = s.midTick ∧ t.lastNow = s.lastNow ∧
  t.inputs = s.inputs

/-- One outcome has been drawn: the next settled answer is used up, or one more free value is (R57). -/
abbrev OneDraw (s t : State) : Prop :=
  t.answers = s.answers.tail ∧ t.draws = s.draws + s.answers.isEmpty.toNat

/-- From `s` to `t` the block sends the reply `OK` and then produces the labels `ls`, and nothing else changes. -/
abbrev AcksThen (ls : List Label) (s t : State) : Prop :=
  SameBlock s t ∧ OneDraw s t ∧
  t.out = s.out ++ sendLabels .rx [0x4F, 0x4B, 0x0A] (nextOutcome s 3) ++ ls

/-- The parts of two decoder sessions that can still be read agree: `Idle` reads nothing before writing it, and
`ReadingLength` reads the buffer only (R39 a). -/
abbrev SameSession (d e : Decoder) : Prop :=
  d.state = e.state ∧ (d.state = .readingLength → d.buf = e.buf) ∧ (d.state = .readingPayload → d = e)

/-- A sequence of ticks by the clock, as the block samples them: each time as a timestamp (R41). -/
def sampled (p : Params) (ticks : List (Nat × Bool)) : List (Nat × Bool) :=
  ticks.map fun x => (stamp p x.1, x.2)

/-- The presence state after a sequence of ticks `(t, raw)`. -/
def presenceAfter (p : Params) (pr : Presence) : List (Nat × Bool) → Presence
  | [] => pr
  | (t, raw) :: ts => presenceAfter p (tickPresence p t raw pr) ts

/-- How many change events a sequence of ticks sends (R163, R169). -/
def changeCount (p : Params) (pr : Presence) : List (Nat × Bool) → Nat
  | [] => 0
  | (t, raw) :: ts => (changeFires p t raw pr).toNat + changeCount p (tickPresence p t raw pr) ts

end Sys2Proof.Machine
end

