-- ==== Sys2Proof/Certificates/Slice0/Obligations.lean ====
section
/-! DEFINITION. The statements for the provers, unit by unit in the order of the spec's section files. A statement about
a step is made at `s with inputs := event :: rest`, so that it needs no hypothesis about what comes next. -/

open Sys2Proof Sys2Proof.Machine

/-! ### Checksum unit (40_checksum) -/

/-- R100: the byte is XORed in, then eight times the register shifts left and, if bit 7 was 1, takes `0x07`. R101: the
checksum is the fold of that step from `0x00`, with no final XOR (the spec's decision D6). -/
def Obligations.CrcFoldsEightMsbFirstRounds : Prop :=
  (∀ c b : Byte,
    let round : Byte → Byte := fun r => if r.getLsbD 7 then (r <<< 1) ^^^ 0x07 else r <<< 1
    crc8Step c b = round (round (round (round (round (round (round (round (c ^^^ b))))))))) ∧
  ∀ s : Bytes, crc8 s = s.foldl crc8Step 0x00

/-- The incremental law of 40_checksum, which the spec marks as derived from R101: the CRC of a concatenation continues
from the CRC of its first part. -/
def Obligations.CrcContinuesOverConcatenation : Prop :=
  ∀ s t : Bytes, crc8 (s ++ t) = t.foldl crc8Step (crc8 s)

/-- The zero residue of 40_checksum, which the spec marks as derived from R100 and R101: appending a byte gives
residue 0 exactly when the byte is the CRC, so a frame is valid exactly when the CRC of its covered region and
checksum byte together is 0. -/
def Obligations.CrcResidueZeroIffChecksum : Prop :=
  (∀ (s : Bytes) (x : Byte), crc8 (s ++ [x]) = 0x00 ↔ x = crc8 s) ∧
  (∀ (len id ck : Byte) (p : Bytes),
    frameValid ck (crc8 (len :: id :: p)) = true ↔ crc8 ((len :: id :: p) ++ [ck]) = 0x00)

/-- R105: covered regions of one length that differ in exactly one bit have different CRCs, and a flipped bit of the
checksum byte of a valid frame makes it invalid. -/
def Obligations.SingleBitErrorChangesChecksum : Prop :=
  (∀ (before after : Bytes) (b : Byte) (k : Fin 8),
    crc8 (before ++ (b ^^^ ((0x01 : Byte) <<< k.val)) :: after) ≠ crc8 (before ++ b :: after)) ∧
  (∀ (ck : Byte) (k : Fin 8), frameValid (ck ^^^ ((0x01 : Byte) <<< k.val)) ck = false)

/-! ### Frame encoder (41_encoder) -/

/-- R112 with the refusal of R111: the layout of an encoded frame. -/
def Obligations.EncoderLaysOutFrameOrRefuses : Prop :=
  ∀ (cap : Nat) (id : Byte) (p : Bytes),
    encodeEvent cap id p =
      if p.length > cap - 4 ∨ p.length > 254 then .tooLong p.length
      else .ok ([0xAA, BitVec.ofNat 8 (p.length + 1), id] ++ p ++
        [crc8 ([BitVec.ofNat 8 (p.length + 1), id] ++ p)])

/-- R79, R116: the two outbound `CarDetected` frames, whatever the capacity. -/
def Obligations.CarDetectedFramesAlwaysEncode : Prop :=
  ∀ p : Params,
    encodeCarDetected p.capacity true = .ok [0xAA, 0x02, 0x03, 0x01, 0xEE] ∧
    encodeCarDetected p.capacity false = .ok [0xAA, 0x02, 0x03, 0x00, 0xE9]

/-- What 42_decoder section 3 marks as derived from R124 and R111: the overflow guard admits exactly the lengths the
encoder can produce: a payload encodes if and only if the guard admits its length, and the length byte of an encoded
frame is never 0 and always admitted. -/
def Obligations.GuardAdmitsWhatEncoderProduces : Prop :=
  (∀ (p : Params) (len id : Byte) (payload : Bytes), len ≠ 0x00 → payload.length = len.toNat - 1 →
    ((len.toNat + 3 ≤ p.capacity ↔ payload.length ≤ p.capacity - 4) ∧
     (len.toNat + 3 ≤ p.capacity ↔ ∃ frame, encodeEvent p.capacity id payload = .ok frame))) ∧
  (∀ (p : Params) (id : Byte) (payload frame : Bytes), encodeEvent p.capacity id payload = .ok frame →
    ∃ len : Byte, frame[1]? = some len ∧ len ≠ 0x00 ∧ len.toNat + 3 ≤ p.capacity ∧
      payload.length = len.toNat - 1)

/-! ### Decoding whole frames (30_encoding) -/

/-- Decoding an encoded well-formed instruction gives it back, and leaves the bytes after it. -/
def Obligations.DecodeOfEncodeIsIdentity : Prop :=
  ∀ (cap : Nat) (i : Instr) (rest : Bytes), wellFormed cap i = true →
    decode cap (encode i ++ rest) = .ok (i, rest)

/-- What decodes is a well-formed instruction whose encoding is the bytes it was read from. -/
def Obligations.DecodedBytesReencode : Prop :=
  ∀ (cap : Nat) (bytes : Bytes) (i : Instr) (rest : Bytes), decode cap bytes = .ok (i, rest) →
    wellFormed cap i = true ∧ encode i ++ rest = bytes

/-- R73, R80: every event id matches exactly one row of the opcode table, and it is the row of the instruction. -/
def Obligations.EventIdSelectsOneOpcodeRow : Prop :=
  ∀ (id : Byte) (p : Bytes),
    (opcodeRows.filter fun row => id &&& row.1 == row.2.1).map (fun row => row.2.2) = [mnemonicOf (eventInstr id p)]

/-- R88 and R122 as refusals by name: a wrong first byte, a length above the capacity, a length of 0. -/
def Obligations.DecoderRefusesMalformedByName : Prop :=
  (∀ (cap : Nat) (m : Byte) (rest : Bytes), m ≠ 0xAA → decode cap (m :: rest) = .error .noStartMarker) ∧
  (∀ (cap : Nat) (len : Byte) (rest : Bytes), len.toNat + 3 > cap →
    decode cap (0xAA :: len :: rest) = .error .overCapacity) ∧
  (∀ (p : Params) (rest : Bytes), decode p.capacity (0xAA :: 0x00 :: rest) = .error .lengthZero)

/-- Words of the spec's tables decode to the instructions they stand for, for every capacity that holds them. -/
def Obligations.WrittenOutFramesDecode : Prop :=
  ∀ p : Params,
    decode p.capacity [0xAA, 0x01, 0x01, 0x12] = .ok (.display [], []) ∧
    decode p.capacity [0xAA, 0x02, 0x02, 0xC8, 0x8A] = .ok (.setact [0xC8], []) ∧
    decode p.capacity [0xAA, 0x02, 0x03, 0x01, 0xEE] = .ok (.cardet [0x01], []) ∧
    decode p.capacity [0xAA, 0x02, 0x04, 0x01, 0x85] = .ok (.plate [0x01], []) ∧
    decode p.capacity [0xAA, 0x02, 0x05, 0x01, 0x90] = .ok (.lotfull [0x01], []) ∧
    decode p.capacity [0xAA, 0x01, 0x06, 0x07] = .ok (.unknown06to07 0 [], []) ∧
    decode p.capacity [0xAA, 0x02, 0x03, 0x01, 0x00] = .ok (.invalidFrame 0x03 [0x01] 0x00 0xEE, [])

/-- R90: `FRAME` expands to the framed bytes where the payload fits and to nothing elsewhere, `RAW` to its bytes, and
the other framed forms to the bytes of the instruction they name. -/
def Obligations.NotationExpandsToEncodedInstruction : Prop :=
  ∀ (p : Params) (v : Bool) (n id : Byte) (text : Bytes),
    expandLine p.capacity (.frame id text) =
      (if text.length ≤ min (p.capacity - 4) 254 then
        some (([0xAA, BitVec.ofNat 8 (text.length + 1), id] ++ text ++
          [crc8 ([BitVec.ofNat 8 (text.length + 1), id] ++ text)]).map .rx)
       else none) ∧
    expandLine p.capacity (.raw text) = some (text.map .rx) ∧
    expandLine p.capacity (.setact n) = some ((encode (.setact [n])).map .rx) ∧
    expandLine p.capacity (.cardet v) = some ((encode (.cardet [if v then 0x01 else 0x00])).map .rx) ∧
    expandLine p.capacity (.plate v) = some ((encode (.plate [if v then 0x01 else 0x00])).map .rx) ∧
    expandLine p.capacity (.lotfull v) = some ((encode (.lotfull [if v then 0x01 else 0x00])).map .rx) ∧
    expandLine p.capacity (.display text) =
      if wellFormed p.capacity (.display text) then some ((encode (.display text)).map .rx) else none

/-! ### Frame decoder (42_decoder) -/

/-- R121, R122: in `Idle` the start marker opens a session and any other byte changes nothing. -/
def Obligations.IdleByteOpensOrIsDiscarded : Prop :=
  ∀ (s : State) (b : Byte) (rest : List InputEvent), s.dec.state = .idle →
    step { s with inputs := .rx b :: rest } = .next
      (if b = 0xAA then { s with inputs := rest, dec := { s.dec with state := .readingLength, buf := [0xAA] } }
       else { s with inputs := rest })

/-- R123 to R125: the length byte overflows, is zero, or opens the payload. That length 0 is dropped and that sums do
not wrap are the spec's decisions D3 and D4. -/
def Obligations.LengthByteOverflowsIsZeroOrAccepted : Prop :=
  ∀ (s : State) (len : Byte) (rest : List InputEvent), s.dec.state = .readingLength → s.dec.buf = [0xAA] →
    step { s with inputs := .rx len :: rest } = .next
      (if len.toNat + 3 > s.params.capacity then
        { s with
          inputs := rest
          dec := { s.dec with state := .idle, buf := [] }
          out := s.out ++ [.err (.overflow len)] }
       else if len = 0x00 then
        { s with
          inputs := rest
          dec := { s.dec with state := .idle, buf := [] }
          out := s.out ++ [.err (.badLength 0x00)] }
       else
        { s with
          inputs := rest
          dec := { state := .readingPayload, buf := [0xAA, len], remaining := len.toNat + 1,
                   expectedLen := len.toNat + 3, crcAcc := crc8Step 0x00 len } })

/-- R126, R130: a byte that is not the last of its frame is counted and enters the checksum, whatever its value, the
start marker's included. -/
def Obligations.PayloadByteIsCountedWhateverItsValue : Prop :=
  ∀ (s : State) (b : Byte) (rest : List InputEvent),
    s.dec.state = .readingPayload → s.dec.buf.length < s.params.capacity → 2 ≤ s.dec.remaining →
    step { s with inputs := .rx b :: rest } = .next
      { s with
        inputs := rest
        dec := { s.dec with
          buf := s.dec.buf ++ [b], remaining := s.dec.remaining - 1, crcAcc := crc8Step s.dec.crcAcc b } }

/-- A STEP RUNS THE DECODED INSTRUCTION (R127 to R129): when the byte that completes a frame arrives and the buffered
bytes decode to `i`, the step is `exec i` on the state with the session ended. -/
def Obligations.StepRunsDecodedInstruction : Prop :=
  ∀ (s : State) (b : Byte) (rest : List InputEvent) (i : Instr),
    DecoderInv s.params.capacity s.dec → s.dec.state = .readingPayload → s.dec.remaining = 1 →
    decode s.params.capacity (s.dec.buf ++ [b]) = .ok (i, []) →
    step { s with inputs := .rx b :: rest } =
      exec i { s with
        inputs := rest
        dec := { s.dec with state := .idle, buf := [], remaining := 0, expectedLen := 0 } }

/-- R73, R87, R135: whatever the last byte of a frame, the buffered bytes decode to a well-formed instruction. -/
def Obligations.CompletedFrameAlwaysDecodes : Prop :=
  ∀ (cap : Nat) (d : Decoder) (b : Byte),
    DecoderInv cap d → d.state = .readingPayload → d.remaining = 1 →
    ∃ i, decode cap (d.buf ++ [b]) = .ok (i, []) ∧ wellFormed cap i = true

/-- HEADLINE (R115 with R120 to R129): the bytes of any well-formed instruction, fed one at a time to an idle decoder,
run exactly that instruction at the last byte, with no output before it. -/
def Obligations.FrameStreamRunsItsInstruction : Prop :=
  ∀ (s : State) (i : Instr) (rest : List InputEvent),
    s.dec.state = .idle → wellFormed s.params.capacity i = true →
    let fed : State := { s with inputs := (encode i).map .rx ++ rest }
    runFor (encode i).length fed =
      exec i { s with
        inputs := rest
        dec := { state := .idle, buf := [], remaining := 0, expectedLen := 0,
                 crcAcc := crc8 (coveredRegion (eventIdOf i) (payloadOf i)) } } ∧
    ∀ k, k < (encode i).length → ∃ t : State, runFor k fed = .next t ∧ t.out = s.out

/-- R134: a refused length byte gives no frame and returns to `Idle`, and the very next byte is taken there: a start
marker opens a fresh session, any other byte changes nothing. -/
def Obligations.RefusedLengthAcceptsFreshMarker : Prop :=
  ∀ (s : State) (len b : Byte) (rest : List InputEvent), s.dec.state = .readingLength → s.dec.buf = [0xAA] →
    (len.toNat + 3 > s.params.capacity ∨ len = 0x00) →
    ∃ t u : State, step { s with inputs := .rx len :: .rx b :: rest } = .next t ∧ t.dec.state = .idle ∧
      (t.out = s.out ++ [.err (.overflow len)] ∨ t.out = s.out ++ [.err (.badLength len)]) ∧
      step t = .next u ∧ u.out = t.out ∧
      (if b = 0xAA then u.dec.state = .readingLength ∧ u.dec.buf = [0xAA] else u.dec = t.dec)

/-- R131: no step but a received byte or reset changes the decoder. -/
def Obligations.OnlyBytesAndResetMoveTheDecoder : Prop :=
  ∀ s t : State, step s = .next t →
    (∀ b rest, s.inputs ≠ .rx b :: rest) → (∀ rest, s.inputs ≠ .reset :: rest) → t.dec = s.dec

/-- R39 (a): what is left in the decoder while it is idle is never read: two states whose sessions agree in what can
still be read make the same step. -/
def Obligations.LeftoverSessionIsNeverRead : Prop :=
  ∀ (s t : State) (e : Decoder), SameSession s.dec e → step s = .next t →
    ∃ e', step { s with dec := e } = .next { t with dec := e' } ∧ SameSession t.dec e'

/-! ### Event dispatcher (43_dispatcher): what each instruction does, and that it completes -/

/-- R144. An empty text is shown by the spec's decision D14. -/
def Obligations.DisplayAcksThenShowsPayload : Prop :=
  ∀ (payload : Bytes) (s : State), ∃ t, exec (.display payload) s = .next t ∧ AcksThen [.disp payload] s t

/-- R145: the angle is clamped to 180; surplus bytes are not read (the spec's decision D11); an empty payload follows
R152. -/
def Obligations.SetactAcksThenWritesClampedAngle : Prop :=
  (∀ (b : Byte) (surplus : Bytes) (s : State), ∃ t, exec (.setact (b :: surplus)) s = .next t ∧
    AcksThen [.act (BitVec.ofNat 8 (min b.toNat 180))] s t) ∧
  (∀ s : State, ∃ t, AcksThen [] s t ∧ exec (.setact []) s = .next (emptyArgAct t))

/-- R146. -/
def Obligations.CardetOnlyAcks : Prop :=
  ∀ (payload : Bytes) (s : State), ∃ t, exec (.cardet payload) s = .next t ∧ AcksThen [] s t

/-- R147, with `bool_of` of R83 spelled out for both decodings. -/
def Obligations.PlateAcksThenWritesGateAngle : Prop :=
  (∀ (b : Byte) (surplus : Bytes) (s : State),
    let flag : Bool := match s.params.boolDecode with
      | .nonzero => b != 0x00
      | .eqOne => b == 0x01
    let angle : Fin 181 := if flag then s.params.openAngle else s.params.closedAngle
    ∃ t, exec (.plate (b :: surplus)) s = .next t ∧ AcksThen [.act (BitVec.ofNat 8 angle.val)] s t) ∧
  (∀ s : State, ∃ t, AcksThen [] s t ∧ exec (.plate []) s = .next (emptyArgAct t))

/-- R148, with `bool_of` of R83 spelled out for both decodings. -/
def Obligations.LotfullAcksThenShowsText : Prop :=
  (∀ (b : Byte) (surplus : Bytes) (s : State),
    let flag : Bool := match s.params.boolDecode with
      | .nonzero => b != 0x00
      | .eqOne => b == 0x01
    ∃ t, exec (.lotfull (b :: surplus)) s = .next t ∧
      AcksThen [.disp (if flag then s.params.lotFullTextTrue else s.params.lotFullTextFalse)] s t) ∧
  (∀ s : State, ∃ t, AcksThen [] s t ∧ exec (.lotfull []) s = .next (emptyArgDisp t))

/-- R149: every unknown event id, and only acknowledged. -/
def Obligations.UnknownIdsOnlyAck : Prop :=
  ∀ (payload : Bytes) (s : State),
    (∃ t, exec (.unknown00 payload) s = .next t ∧ AcksThen [] s t) ∧
    (∀ low, ∃ t, exec (.unknown06to07 low payload) s = .next t ∧ AcksThen [] s t) ∧
    (∀ low, ∃ t, exec (.unknown08to0F low payload) s = .next t ∧ AcksThen [] s t) ∧
    (∀ low, ∃ t, exec (.unknown10to1F low payload) s = .next t ∧ AcksThen [] s t) ∧
    (∀ low, ∃ t, exec (.unknown20to3F low payload) s = .next t ∧ AcksThen [] s t) ∧
    (∀ low, ∃ t, exec (.unknown40to7F low payload) s = .next t ∧ AcksThen [] s t) ∧
    (∀ low, ∃ t, exec (.unknown80toFF low payload) s = .next t ∧ AcksThen [] s t)

/-- R142: an invalid frame raises `E_CHECKSUM`, gets the ERR reply, and does nothing else. -/
def Obligations.InvalidFrameGetsErrReply : Prop :=
  ∀ (id : Byte) (payload : Bytes) (rx computed : Byte) (s : State), ∃ t,
    exec (.invalidFrame id payload rx computed) s = .next t ∧ SameBlock s t ∧ OneDraw s t ∧
    t.out = s.out ++ .err (.checksum rx computed) :: sendLabels .rx [0x45, 0x52, 0x52, 0x0A] (nextOutcome s 4)

/-- R152, the spec's decision D10: an event that needs an argument byte and has none is acknowledged; under `IGNORE`
it writes nothing, under `DRAW` nothing or one legal value, and one more free value is drawn. -/
def Obligations.EmptyArgumentIgnoresOrDrawsLegalWrite : Prop :=
  ∀ s : State,
    (s.params.emptyArgPolicy = .ignore →
      ∀ i ∈ [Instr.setact [], Instr.plate [], Instr.lotfull []], ∃ t, exec i s = .next t ∧ AcksThen [] s t) ∧
    (s.params.emptyArgPolicy = .draw →
      ∀ i ∈ [Instr.setact [], Instr.plate [], Instr.lotfull []], ∃ t w, exec i s = .next t ∧ SameBlock s t ∧
        t.answers = s.answers.tail ∧ t.draws = s.draws + s.answers.isEmpty.toNat + 1 ∧
        t.out = s.out ++ sendLabels .rx [0x4F, 0x4B, 0x0A] (nextOutcome s 3) ++ w ∧
        (w = [] ∨
         (if i = .lotfull [] then ∃ x : Bytes, x.length ≤ min (s.params.capacity - 4) 254 ∧ w = [.disp x]
          else ∃ a : Byte, a.toNat ≤ 180 ∧ w = [.act a])))

/-- The side-effect bound of 43_dispatcher, which the spec marks as derived from R142 to R149: a byte that completes a
frame gives exactly one reply and at most one collaborator write; any other byte gives neither. -/
def Obligations.OneReplyPerFrameAtMostOneWrite : Prop :=
  ∀ (s t : State) (b : Byte) (rest : List InputEvent), step { s with inputs := .rx b :: rest } = .next t →
    ∃ ls, t.out = s.out ++ ls ∧ ls.countP isWrite ≤ ls.countP isTx ∧
      ls.countP isTx = if s.dec.state = .readingPayload ∧ s.dec.remaining = 1 then 1 else 0

/-- R151: the action of a frame does not depend on the outcome of its reply. -/
def Obligations.ReplyOutcomeNeverChangesTheAction : Prop :=
  ∀ (i : Instr) (s t u : State) (o o' : SendOutcome) (rest : List SendOutcome),
    exec i { s with answers := o :: rest } = .next t → exec i { s with answers := o' :: rest } = .next u →
    t.out.filter isWrite = u.out.filter isWrite ∧ t.answers = rest ∧ u.answers = rest

/-! ### Transmit path and labels (20_memory, 60_exceptions) -/

/-- R57, R184: one `Send` uses one outcome of the link, which may be any legal one; it is one transmission label, with
`E_TX_FAIL` after it if it failed, and the bytes on the wire are the message or a strict prefix of it. -/
def Obligations.SendTakesAnyLegalOutcome : Prop :=
  ∀ (a : Agent) (m : Bytes) (s : State), m ≠ [] →
    (∃ o, outcomeLegal m.length o = true ∧ send a m s = { afterDraw s with out := s.out ++ sendLabels a m o }) ∧
    (∀ o rest, outcomeLegal m.length o = true →
      send a m { s with answers := o :: rest } = { s with answers := rest, out := s.out ++ sendLabels a m o }) ∧
    sendLabels a m .sent = [.tx a m .sent] ∧ wireBytes (sendLabels a m .sent) = m ∧
    (∀ k, sendLabels a m (.failed k) = [.tx a m (.failed k), .err (.txFail a m k)] ∧
      wireBytes (sendLabels a m (.failed k)) = m.take k)

/-- R42, R56: a byte's step sends only replies of the RX agent; any other step sends only `CarDetected` frames of the
MAIN agent and writes neither actuator nor display. -/
def Obligations.AgentsKeepTheirOutputs : Prop :=
  ∀ s t : State, step s = .next t → ∃ ls, t.out = s.out ++ ls ∧ ∀ l ∈ ls,
    (∀ a m o, l = .tx a m o →
      if byteNext s then
        a = .rx ∧ (m = [0x4F, 0x4B, 0x0A] ∨ m = [0x45, 0x52, 0x52, 0x0A])
      else a = .main ∧ (m = [0xAA, 0x02, 0x03, 0x01, 0xEE] ∨ m = [0xAA, 0x02, 0x03, 0x00, 0xE9])) ∧
    (isWrite l = true → byteNext s = true)

/-- R180, R187: the labels of one RX step are nothing, one length error, the checksum error then the ERR reply, or the
OK reply then at most one write. -/
def Obligations.RxStepLabelShapes : Prop :=
  ∀ (s t : State) (b : Byte) (rest : List InputEvent), step { s with inputs := .rx b :: rest } = .next t →
    ∃ ls, t.out = s.out ++ ls ∧
      (ls = [] ∨ ls = [.err (.overflow b)] ∨ (ls = [.err (.badLength b)] ∧ b = 0x00) ∨
       (∃ rx computed o, rx ≠ computed ∧
          ls = .err (.checksum rx computed) :: sendLabels .rx [0x45, 0x52, 0x52, 0x0A] o) ∨
       (∃ o w, ls = sendLabels .rx [0x4F, 0x4B, 0x0A] o ++ w ∧
          (w = [] ∨ (∃ a, w = [.act a]) ∨ (∃ x, w = [.disp x]))))

/-- R47: a step only appends labels. -/
def Obligations.StepOnlyAppendsLabels : Prop :=
  ∀ s t : State, step s = .next t → s.out <+: t.out

/-- R203: no step changes a parameter, reset included. -/
def Obligations.ParametersNeverChange : Prop :=
  ∀ s t : State, step s = .next t → t.params = s.params

/-! ### Presence monitor (44_presence) -/

/-- What R162 to R165 give a tick to write and send. The writes are capture, debounce and heartbeat reload, in that
order. One trigger sends one `CarDetected` frame with the debounced value after the tick; both send two, the second at
the MAIN agent's next turn; neither sends nothing. Nothing but the presence state, the clock, the draws and the labels
changes. Order and reload are the spec's decisions D17 and D18. The model's own choices are the pending flag with its second `Send` at `resume` (log entry 7), the last
timestamp with its order `clockOk` (log entry 9) and the draws (log entry 5). -/
def Obligations.TickCapturesDebouncesAndSends : Prop :=
  ∀ (s : State) (now : Nat) (raw : Bool) (rest : List InputEvent),
    s.midTick = false → clockOk s (stamp s.params now) = true →
    let t := stamp s.params now
    let transition := if raw = s.pres.lastRaw then s.pres.lastTransitionTime else t
    let change : Bool := raw != s.pres.debounced && decide (50 ≤ elapsed s.params t transition)
    let heartbeat : Bool := decide (1000 ≤ elapsed s.params t s.pres.lastPeriodicSendTime)
    let debounced := if change then raw else s.pres.debounced
    let frame : Bytes := if debounced then [0xAA, 0x02, 0x03, 0x01, 0xEE] else [0xAA, 0x02, 0x03, 0x00, 0xE9]
    ∃ u, step { s with inputs := .tick now raw :: rest } = .next u ∧
      u.params = s.params ∧ u.dec = s.dec ∧ u.lastNow = t ∧ u.inputs = rest ∧
      u.pres = { lastRaw := raw, debounced := debounced, lastTransitionTime := transition,
                 lastPeriodicSendTime := if heartbeat then t else s.pres.lastPeriodicSendTime } ∧
      u.midTick = (change && heartbeat) ∧
      (if change || heartbeat then
        OneDraw s u ∧ u.out = s.out ++ sendLabels .main frame (nextOutcome s 5)
       else u.answers = s.answers ∧ u.draws = s.draws ∧ u.out = s.out) ∧
      (u.midTick = true → ∀ more, ∃ v, step { u with inputs := .resume :: more } = .next v ∧
        v.params = u.params ∧ v.dec = u.dec ∧ v.pres = u.pres ∧ v.lastNow = u.lastNow ∧ v.inputs = more ∧
        v.midTick = false ∧ OneDraw u v ∧ v.out = u.out ++ sendLabels .main frame (nextOutcome u 5))

/-- Between the two `Send` calls of a tick an RX step may fall (R64, R165). It is the MODEL'S choice (log entry 7)
that the second `Send` is a step of its own, pending in `midTick`, and made before a next tick, which stays in the
script, or when no input is left; the draws are the model's too (log entry 5). -/
def Obligations.PendingHeartbeatIsSentBeforeTheNextTick : Prop :=
  ∀ (s : State) (now : Nat) (raw : Bool) (rest : List InputEvent), s.midTick = true →
    let frame : Bytes := if s.pres.debounced then [0xAA, 0x02, 0x03, 0x01, 0xEE] else [0xAA, 0x02, 0x03, 0x00, 0xE9]
    (∃ u, step { s with inputs := .tick now raw :: rest } = .next u ∧ u.inputs = .tick now raw :: rest ∧
      u.midTick = false ∧ u.pres = s.pres ∧ u.dec = s.dec ∧ OneDraw s u ∧
      u.out = s.out ++ sendLabels .main frame (nextOutcome s 5)) ∧
    (∃ u, step { s with inputs := [] } = .next u ∧ u.inputs = [] ∧ u.midTick = false ∧ u.pres = s.pres ∧
      u.dec = s.dec ∧ OneDraw s u ∧ u.out = s.out ++ sendLabels .main frame (nextOutcome s 5)) ∧
    (∀ (b : Byte) (u : State), step { s with inputs := .rx b :: rest } = .next u → u.midTick = true)

/-- R167: the state after a tick does not depend on the link. -/
def Obligations.PresenceIgnoresSendOutcome : Prop :=
  ∀ (s t u : State) (as bs : List SendOutcome), step { s with answers := as } = .next t →
    step { s with answers := bs } = .next u → t.pres = u.pres ∧ t.midTick = u.midTick ∧ t.lastNow = u.lastNow

/-- R161: elapsed time, unbounded, modular, and right across one wrap of a finite clock. -/
def Obligations.ElapsedIsModularDifference : Prop :=
  (∀ (p : Params) (t t0 : Nat), p.timeWidth = none → t0 ≤ t → (elapsed p t t0 : Int) = (t : Int) - t0) ∧
  (∀ (p : Params) (w t t0 : Nat), p.timeWidth = some w →
    (elapsed p t t0 : Int) = ((t : Int) - t0) % (2 : Int) ^ w) ∧
  (∀ (p : Params) (w t0 d : Nat), p.timeWidth = some w → t0 < 2 ^ w → d < 2 ^ w →
    elapsed p (stamp p (t0 + d)) t0 = d)

/-- The MODEL'S choice (log entry 9; 92_eei_decisions D20): with unbounded timestamps a tick that goes back in time is
refused by name; with a finite width no tick is refused. -/
def Obligations.BackwardClockRefusedOnlyUnbounded : Prop :=
  ∀ (s : State) (now : Nat) (raw : Bool) (rest : List InputEvent), s.midTick = false →
    (s.params.timeWidth = none → now < s.lastNow →
      step { s with inputs := .tick now raw :: rest } = .refused (.clockWentBack now)) ∧
    (s.params.timeWidth ≠ none → ∃ t, step { s with inputs := .tick now raw :: rest } = .next t)

/-- The first half of the debounce property, which 44_presence marks as derived from R162 and R163, for every
`TIME_WIDTH`: if every stretch of consecutive ticks that read the value opposite to the debounced one spans less than
50 time-units of the clock, no tick sends a change event and the debounced value stays. That the block samples the low
`TIME_WIDTH` bits of the clock is the model's choice (log entry 9). -/
def Obligations.FastTogglingNeverReports : Prop :=
  ∀ (p : Params) (pr : Presence) (ticks : List (Nat × Bool)),
    pr.lastRaw = pr.debounced → ticks.Pairwise (fun x y => x.1 ≤ y.1) →
    (∀ before stretch after, ticks = before ++ stretch ++ after → (∀ x ∈ stretch, x.2 ≠ pr.debounced) →
      ∀ x ∈ stretch, ∀ y ∈ stretch, y.1 < x.1 + 50) →
    changeCount p pr (sampled p ticks) = 0 ∧ (presenceAfter p pr (sampled p ticks)).debounced = pr.debounced

/-- The second half of the debounce property, which 44_presence marks as derived from R162 and R163: a single transition
that holds sends exactly one change event, at the first tick at least 50 time-units after the one that saw it (the count
is 0 before and 1 from that tick on). With a finite `TIME_WIDTH` it says so for ticks within one wrap of the clock; that
the block samples the low `TIME_WIDTH` bits of the clock is the model's choice (log entry 9). -/
def Obligations.StableTransitionReportsExactlyOnce : Prop :=
  ∀ (p : Params) (pr : Presence) (t1 : Nat) (v : Bool) (times : List Nat),
    pr.lastRaw = pr.debounced → v ≠ pr.debounced → (t1 :: times).Pairwise (· ≤ ·) →
    (∀ w, p.timeWidth = some w → ∀ t ∈ times, t < t1 + 2 ^ w) →
    changeCount p pr (sampled p ((t1, v) :: times.map (fun t => (t, v)))) =
      if times.any (fun t => t1 + 50 ≤ t) then 1 else 0

/-- R170, with its tick condition: with ticks at most `period` apart, heartbeats are at least 1000 and less than
`1000 + period` time-units apart, so with a tick at every time-unit they are exactly 1000 apart. -/
def Obligations.HeartbeatSpacing : Prop :=
  ∀ (p : Params) (pr : Presence) (u t period : Nat) (rawU rawT : Bool),
    p.timeWidth = none → pr.lastPeriodicSendTime ≤ u → u ≤ t → t ≤ u + period →
    let after := tickPresence p u rawU pr
    heartbeatFires p t rawT after = true →
      1000 ≤ t - after.lastPeriodicSendTime ∧ t - after.lastPeriodicSendTime < 1000 + period ∧
      (tickPresence p t rawT after).lastPeriodicSendTime = t

/-! ### Isolation of the agents (20_memory R56, 44_presence R168) -/

/-- A byte's step neither reads nor writes presence state: with other presence state it does the same. -/
def Obligations.RxStepIgnoresPresenceState : Prop :=
  ∀ (s : State) (b : Byte) (rest : List InputEvent) (pr : Presence) (mid : Bool) (seen : Nat),
    step { s with inputs := .rx b :: rest, pres := pr, midTick := mid, lastNow := seen } =
      mapNext (fun t => { t with pres := pr, midTick := mid, lastNow := seen })
        (step { s with inputs := .rx b :: rest })

/-- A MAIN step neither reads nor writes decoder state: with another decoder session it does the same. -/
def Obligations.MainStepIgnoresDecoderState : Prop :=
  ∀ (s : State) (d : Decoder), (∀ b rest, s.inputs ≠ .rx b :: rest) → (∀ rest, s.inputs ≠ .reset :: rest) →
    step { s with dec := d } = mapNext (fun t => { t with dec := d }) (step s)

/-! ### Reset, parking, invariants (70_reset_and_hazards, 10_state R39, 60_exceptions R199) -/

/-- R201: what reset leaves of the decoder, at power-on and as an input. -/
def Obligations.ResetLeavesDecoderIdleAndEmpty : Prop :=
  let d : Decoder := { state := .idle, buf := [], remaining := 0, expectedLen := 0, crcAcc := 0x00 }
  (∀ p : Params, (State.resetWith p).dec = d) ∧
  ∀ (s : State) (rest : List InputEvent), ∃ t, step { s with inputs := .reset :: rest } = .next t ∧ t.dec = d

/-- 70_reset_and_hazards R200, R202, R203: what reset leaves of the presence state, with `T_RESET` read as a timestamp
(the model's choice, log entries 2 and 9), and that it makes no label. As an input it keeps the rest of the script, the
settled answers and the draws, and drops a pending `Send` (the model's choice, log entry 10). -/
def Obligations.ResetLeavesPresenceAtItsParameters : Prop :=
  ∀ (s : State) (rest : List InputEvent),
    let pr : Presence :=
      { lastRaw := s.params.initPresence, debounced := s.params.initPresence,
        lastTransitionTime := stamp s.params s.params.tReset,
        lastPeriodicSendTime := stamp s.params s.params.tReset }
    (State.resetWith s.params).pres = pr ∧ (State.resetWith s.params).params = s.params ∧
    (State.resetWith s.params).out = [] ∧
    ∃ t, step { s with inputs := .reset :: rest } = .next t ∧
      t.pres = pr ∧ t.midTick = false ∧ t.params = s.params ∧ t.inputs = rest ∧ t.out = s.out ∧
      t.answers = s.answers ∧ t.draws = s.draws

/-- R207, R215: with no input and nothing left to send, the block stays parked in any decoder state. -/
def Obligations.NoInputLeavesTheBlockParked : Prop :=
  ∀ s : State, s.midTick = false → step { s with inputs := [] } = .next { s with inputs := [] }

/-- The reset state meets the invariant, for every parameter instance, and is that of the free instance. -/
def Obligations.ResetMeetsInvariant : Prop :=
  (∀ p : Params, Inv (State.resetWith p)) ∧ State.reset = State.resetWith instanceParams

/-- HEADLINE: every step keeps the invariant: the decoder invariants of R39 with the register widths of R24 to R26,
the time registers, and that every label is one the block may produce (R42, R43, R45, R185). That times are the low
`TIME_WIDTH` bits of the clock and that `lastNow` is the last of them is the model's choice (log entry 9); so is the way
a parameter instance holds its `LotFull` texts within the bound of R45 (log entry 20). -/
def Obligations.StepKeepsInvariant : Prop :=
  ∀ s t : State, Inv s → step s = .next t → Inv t

/-- R199: no model fault is raised from a state that meets the decoder invariant. -/
def Obligations.NoModelFaultUnderInvariant : Prop :=
  ∀ s : State, DecoderInv s.params.capacity s.dec → isFault (step s) = false

/-- R186: under the invariant every step goes on, but for a tick that breaks the environment's duty of a monotonic
clock (the model's refusal, log entry 9). -/
def Obligations.EveryStepGoesOnUnlessTheClockGoesBack : Prop :=
  ∀ s : State, Inv s →
    (∃ t, step s = .next t) ∨
    (∃ now raw rest, s.inputs = .tick now raw :: rest ∧ s.params.timeWidth = none ∧ now < s.lastNow ∧
      step s = .refused (.clockWentBack now))

/-- R23: the 2-bit codes of the decoder state; `0b11` is no state. -/
def Obligations.DecoderStateCodes : Prop :=
  decStateCode .idle = 0b00 ∧ decStateCode .readingLength = 0b01 ∧ decStateCode .readingPayload = 0b10 ∧
  decStateOfCode 0b11 = none ∧ ∀ d, decStateOfCode (decStateCode d) = some d

/-- R180: the five error codes. -/
def Obligations.ErrorEventCodes : Prop :=
  ∀ (b c : Byte) (a : Agent) (m : Bytes) (k : Nat),
    errCode (.overflow b) = 1 ∧ errCode (.badLength b) = 2 ∧ errCode (.checksum b c) = 3 ∧
    errCode (.txFail a m k) = 4 ∧ errCode (.encodeTooLong k) = 5

/-- The MODEL'S choice (log entry 8): the next step after placing an opcode-table word at reset runs the instruction of
its event id, with one operand byte of zeros. -/
def Obligations.PlacedTableWordRunsNext : Prop :=
  ∀ id : Byte,
    decodeTableWord 8 id.toNat = some (eventInstr id [0x00]) ∧
    step (State.reset.withFetchWord 8 id.toNat) =
      exec (eventInstr id [0x00])
        { State.reset with dec := { decoderReset with crcAcc := crc8 [0x02, id, 0x00] } }

/-! ### Parameters (00_scope R13, 10_state R45) -/

/-- R45 for the `LotFull` texts: in every parameter instance both fit one display write, and every two texts that fit
are those of some instance with the same capacity. How an instance holds them is the model's choice (log entry 20). -/
def Obligations.LotFullTextsAreThoseADisplayWriteCarries : Prop :=
  (∀ p : Params, p.lotFullTextTrue.length ≤ min (p.capacity - 4) 254 ∧
    p.lotFullTextFalse.length ≤ min (p.capacity - 4) 254) ∧
  ∀ (p : Params) (a b : Bytes), a.length ≤ min (p.capacity - 4) 254 → b.length ≤ min (p.capacity - 4) 254 →
    ∃ q : Params, q.capacity = p.capacity ∧ q.lotFullTextTrue = a ∧ q.lotFullTextFalse = b
end

