-- ==== Sys2Proof/Laws/Decode.lean ====
section
/-! SUPPORT. The classification of frames by event id, and its agreement with the fields of an instruction. -/

namespace Sys2Proof

/-- The same row with another payload. -/
def setPayload (q : Bytes) : Instr → Instr
  | .display _ => .display q
  | .setact _ => .setact q
  | .cardet _ => .cardet q
  | .plate _ => .plate q
  | .lotfull _ => .lotfull q
  | .unknown00 _ => .unknown00 q
  | .unknown06to07 low _ => .unknown06to07 low q
  | .unknown08to0F low _ => .unknown08to0F low q
  | .unknown10to1F low _ => .unknown10to1F low q
  | .unknown20to3F low _ => .unknown20to3F low q
  | .unknown40to7F low _ => .unknown40to7F low q
  | .unknown80toFF low _ => .unknown80toFF low q
  | .invalidFrame id _ rx computed => .invalidFrame id q rx computed

/-- The event id alone selects the row. -/
theorem eventInstr_payload (id : Byte) (p : Bytes) : eventInstr id p = setPayload p (eventInstr id []) := by
  simp only [eventInstr, apply_ite (setPayload p)]
  rfl

theorem payloadOf_setPayload (q : Bytes) (i : Instr) : payloadOf (setPayload q i) = q := by
  cases i <;> rfl

theorem eventIdOf_setPayload (q : Bytes) (i : Instr) : eventIdOf (setPayload q i) = eventIdOf i := by
  cases i <;> rfl

theorem mnemonicOf_setPayload (q : Bytes) (i : Instr) : mnemonicOf (setPayload q i) = mnemonicOf i := by
  cases i <;> rfl

theorem payloadOf_eventInstr (id : Byte) (p : Bytes) : payloadOf (eventInstr id p) = p := by
  rw [eventInstr_payload, payloadOf_setPayload]

theorem eventIdOf_eventInstr (id : Byte) (p : Bytes) : eventIdOf (eventInstr id p) = id := by
  rw [eventInstr_payload, eventIdOf_setPayload]
  revert id; decide +kernel

/-- The row is not `INVALID_FRAME`, read off the mnemonic. -/
theorem mnemonicOf_eventInstr_ne (id : Byte) (p : Bytes) : mnemonicOf (eventInstr id p) ≠ "INVALID_FRAME" := by
  rw [eventInstr_payload, mnemonicOf_setPayload]
  revert id; decide +kernel

theorem eventInstr_ne_invalid (id : Byte) (p : Bytes) (a : Byte) (q : Bytes) (rx computed : Byte) :
    eventInstr id p ≠ .invalidFrame a q rx computed :=
  fun h => mnemonicOf_eventInstr_ne id p (by rw [h]; rfl)

theorem checksumOf_of_valid {i : Instr} (h : mnemonicOf i ≠ "INVALID_FRAME") :
    checksumOf i = Machine.crc8 (Machine.coveredRegion (eventIdOf i) (payloadOf i)) := by
  cases i <;> first | rfl | exact absurd rfl h

theorem wellFormed_of_valid {i : Instr} (h : mnemonicOf i ≠ "INVALID_FRAME") (cap : Nat) :
    wellFormed cap i = payloadFits cap (payloadOf i) := by
  cases i <;> first | rfl | exact absurd rfl h

theorem checksumOf_eventInstr (id : Byte) (p : Bytes) :
    checksumOf (eventInstr id p) = Machine.crc8 (Machine.coveredRegion id p) := by
  rw [checksumOf_of_valid (mnemonicOf_eventInstr_ne id p), eventIdOf_eventInstr, payloadOf_eventInstr]

theorem wellFormed_eventInstr (cap : Nat) (id : Byte) (p : Bytes) :
    wellFormed cap (eventInstr id p) = payloadFits cap p := by
  rw [wellFormed_of_valid (mnemonicOf_eventInstr_ne id p), payloadOf_eventInstr]

/-- A frame is an invalid one exactly when its checksums differ. -/
theorem frameInstr_invalid_iff (f : Frame) (a : Byte) (q : Bytes) (rx computed : Byte) :
    frameInstr f = .invalidFrame a q rx computed ↔
      f.checksumRx ≠ f.checksumCalc ∧ f = ⟨a, q, rx, computed⟩ := by
  unfold frameInstr Machine.frameValid
  cases f with
  | mk id p r c =>
    by_cases h : r = c
    · simp [h, eventInstr_ne_invalid]
    · simp [h]

theorem payloadOf_frameInstr (f : Frame) : payloadOf (frameInstr f) = f.payload := by
  unfold frameInstr
  split
  · exact payloadOf_eventInstr _ _
  · rfl

/-- The frame record of an instruction's own fields. -/
def frameOf (i : Instr) : Frame where
  eventId := eventIdOf i
  payload := payloadOf i
  checksumRx := checksumOf i
  checksumCalc := Machine.crc8 (Machine.coveredRegion (eventIdOf i) (payloadOf i))

end Sys2Proof
end

