-- ==== Sys2Proof/Laws/State.lean ====
section
/-! SUPPORT. One lemma per field per named update of State, so that no proof unfolds a record update. -/

namespace Sys2Proof.Machine

@[simp] theorem emit_params (ls : List Label) (s : State) : (emit ls s).params = s.params := rfl
@[simp] theorem emit_dec (ls : List Label) (s : State) : (emit ls s).dec = s.dec := rfl
@[simp] theorem emit_pres (ls : List Label) (s : State) : (emit ls s).pres = s.pres := rfl
@[simp] theorem emit_midTick (ls : List Label) (s : State) : (emit ls s).midTick = s.midTick := rfl
@[simp] theorem emit_lastNow (ls : List Label) (s : State) : (emit ls s).lastNow = s.lastNow := rfl
@[simp] theorem emit_inputs (ls : List Label) (s : State) : (emit ls s).inputs = s.inputs := rfl
@[simp] theorem emit_answers (ls : List Label) (s : State) : (emit ls s).answers = s.answers := rfl
@[simp] theorem emit_draws (ls : List Label) (s : State) : (emit ls s).draws = s.draws := rfl
@[simp] theorem emit_out (ls : List Label) (s : State) : (emit ls s).out = s.out ++ ls := rfl

@[simp] theorem setDec_params (d : Decoder) (s : State) : (setDec d s).params = s.params := rfl
@[simp] theorem setDec_dec (d : Decoder) (s : State) : (setDec d s).dec = d := rfl
@[simp] theorem setDec_pres (d : Decoder) (s : State) : (setDec d s).pres = s.pres := rfl
@[simp] theorem setDec_midTick (d : Decoder) (s : State) : (setDec d s).midTick = s.midTick := rfl
@[simp] theorem setDec_lastNow (d : Decoder) (s : State) : (setDec d s).lastNow = s.lastNow := rfl
@[simp] theorem setDec_inputs (d : Decoder) (s : State) : (setDec d s).inputs = s.inputs := rfl
@[simp] theorem setDec_answers (d : Decoder) (s : State) : (setDec d s).answers = s.answers := rfl
@[simp] theorem setDec_draws (d : Decoder) (s : State) : (setDec d s).draws = s.draws := rfl
@[simp] theorem setDec_out (d : Decoder) (s : State) : (setDec d s).out = s.out := rfl

@[simp] theorem raise_params (e : ErrEvent) (s : State) : (raise e s).params = s.params := rfl
@[simp] theorem raise_dec (e : ErrEvent) (s : State) : (raise e s).dec = s.dec := rfl
@[simp] theorem raise_pres (e : ErrEvent) (s : State) : (raise e s).pres = s.pres := rfl
@[simp] theorem raise_midTick (e : ErrEvent) (s : State) : (raise e s).midTick = s.midTick := rfl
@[simp] theorem raise_lastNow (e : ErrEvent) (s : State) : (raise e s).lastNow = s.lastNow := rfl
@[simp] theorem raise_inputs (e : ErrEvent) (s : State) : (raise e s).inputs = s.inputs := rfl
@[simp] theorem raise_answers (e : ErrEvent) (s : State) : (raise e s).answers = s.answers := rfl
@[simp] theorem raise_draws (e : ErrEvent) (s : State) : (raise e s).draws = s.draws := rfl
@[simp] theorem raise_out (e : ErrEvent) (s : State) : (raise e s).out = s.out ++ [.err e] := rfl

@[simp] theorem actSet_params (a : Byte) (s : State) : (actSet a s).params = s.params := rfl
@[simp] theorem actSet_dec (a : Byte) (s : State) : (actSet a s).dec = s.dec := rfl
@[simp] theorem actSet_pres (a : Byte) (s : State) : (actSet a s).pres = s.pres := rfl
@[simp] theorem actSet_midTick (a : Byte) (s : State) : (actSet a s).midTick = s.midTick := rfl
@[simp] theorem actSet_lastNow (a : Byte) (s : State) : (actSet a s).lastNow = s.lastNow := rfl
@[simp] theorem actSet_inputs (a : Byte) (s : State) : (actSet a s).inputs = s.inputs := rfl
@[simp] theorem actSet_answers (a : Byte) (s : State) : (actSet a s).answers = s.answers := rfl
@[simp] theorem actSet_draws (a : Byte) (s : State) : (actSet a s).draws = s.draws := rfl
@[simp] theorem actSet_out (a : Byte) (s : State) : (actSet a s).out = s.out ++ [.act a] := rfl

@[simp] theorem dispShow_params (x : Bytes) (s : State) : (dispShow x s).params = s.params := rfl
@[simp] theorem dispShow_dec (x : Bytes) (s : State) : (dispShow x s).dec = s.dec := rfl
@[simp] theorem dispShow_pres (x : Bytes) (s : State) : (dispShow x s).pres = s.pres := rfl
@[simp] theorem dispShow_midTick (x : Bytes) (s : State) : (dispShow x s).midTick = s.midTick := rfl
@[simp] theorem dispShow_lastNow (x : Bytes) (s : State) : (dispShow x s).lastNow = s.lastNow := rfl
@[simp] theorem dispShow_inputs (x : Bytes) (s : State) : (dispShow x s).inputs = s.inputs := rfl
@[simp] theorem dispShow_answers (x : Bytes) (s : State) : (dispShow x s).answers = s.answers := rfl
@[simp] theorem dispShow_draws (x : Bytes) (s : State) : (dispShow x s).draws = s.draws := rfl
@[simp] theorem dispShow_out (x : Bytes) (s : State) : (dispShow x s).out = s.out ++ [.disp x] := rfl

@[simp] theorem afterDraw_params (s : State) : (afterDraw s).params = s.params := by
  unfold afterDraw; cases s.answers <;> rfl
@[simp] theorem afterDraw_dec (s : State) : (afterDraw s).dec = s.dec := by
  unfold afterDraw; cases s.answers <;> rfl
@[simp] theorem afterDraw_pres (s : State) : (afterDraw s).pres = s.pres := by
  unfold afterDraw; cases s.answers <;> rfl
@[simp] theorem afterDraw_midTick (s : State) : (afterDraw s).midTick = s.midTick := by
  unfold afterDraw; cases s.answers <;> rfl
@[simp] theorem afterDraw_lastNow (s : State) : (afterDraw s).lastNow = s.lastNow := by
  unfold afterDraw; cases s.answers <;> rfl
@[simp] theorem afterDraw_inputs (s : State) : (afterDraw s).inputs = s.inputs := by
  unfold afterDraw; cases s.answers <;> rfl
@[simp] theorem afterDraw_answers (s : State) : (afterDraw s).answers = s.answers.tail := by
  unfold afterDraw; cases s.answers <;> simp
@[simp] theorem afterDraw_draws (s : State) :
    (afterDraw s).draws = s.draws + s.answers.isEmpty.toNat := by
  unfold afterDraw; cases s.answers <;> simp
@[simp] theorem afterDraw_out (s : State) : (afterDraw s).out = s.out := by
  unfold afterDraw; cases s.answers <;> rfl

@[simp] theorem send_params (a : Agent) (m : Bytes) (s : State) :
    (send a m s).params = s.params := by
  simp [send]
@[simp] theorem send_dec (a : Agent) (m : Bytes) (s : State) :
    (send a m s).dec = s.dec := by
  simp [send]
@[simp] theorem send_pres (a : Agent) (m : Bytes) (s : State) :
    (send a m s).pres = s.pres := by
  simp [send]
@[simp] theorem send_midTick (a : Agent) (m : Bytes) (s : State) :
    (send a m s).midTick = s.midTick := by
  simp [send]
@[simp] theorem send_lastNow (a : Agent) (m : Bytes) (s : State) :
    (send a m s).lastNow = s.lastNow := by
  simp [send]
@[simp] theorem send_inputs (a : Agent) (m : Bytes) (s : State) :
    (send a m s).inputs = s.inputs := by
  simp [send]
@[simp] theorem send_answers (a : Agent) (m : Bytes) (s : State) :
    (send a m s).answers = s.answers.tail := by
  simp [send]
@[simp] theorem send_draws (a : Agent) (m : Bytes) (s : State) :
    (send a m s).draws = s.draws + s.answers.isEmpty.toNat := by
  simp [send]
@[simp] theorem send_out (a : Agent) (m : Bytes) (s : State) :
    (send a m s).out = s.out ++ sendLabels a m (nextOutcome s m.length) := by
  simp [send]

@[simp] theorem powerOn_params (s : State) : (powerOn s).params = s.params := rfl
@[simp] theorem powerOn_dec (s : State) : (powerOn s).dec = decoderReset := rfl
@[simp] theorem powerOn_pres (s : State) : (powerOn s).pres = presenceReset s.params := rfl
@[simp] theorem powerOn_midTick (s : State) : (powerOn s).midTick = false := rfl
@[simp] theorem powerOn_lastNow (s : State) : (powerOn s).lastNow = stamp s.params s.params.tReset := rfl
@[simp] theorem powerOn_inputs (s : State) : (powerOn s).inputs = s.inputs := rfl
@[simp] theorem powerOn_answers (s : State) : (powerOn s).answers = s.answers := rfl
@[simp] theorem powerOn_draws (s : State) : (powerOn s).draws = s.draws := rfl
@[simp] theorem powerOn_out (s : State) : (powerOn s).out = s.out := rfl

@[simp] theorem tickWrites_params (t : Nat) (raw : Bool) (s : State) : (tickWrites t raw s).params = s.params := rfl
@[simp] theorem tickWrites_dec (t : Nat) (raw : Bool) (s : State) : (tickWrites t raw s).dec = s.dec := rfl
@[simp] theorem tickWrites_pres (t : Nat) (raw : Bool) (s : State) : (tickWrites t raw s).pres = tickPresence s.params t raw s.pres := rfl
@[simp] theorem tickWrites_midTick (t : Nat) (raw : Bool) (s : State) : (tickWrites t raw s).midTick = s.midTick := rfl
@[simp] theorem tickWrites_lastNow (t : Nat) (raw : Bool) (s : State) : (tickWrites t raw s).lastNow = t := rfl
@[simp] theorem tickWrites_inputs (t : Nat) (raw : Bool) (s : State) : (tickWrites t raw s).inputs = s.inputs := rfl
@[simp] theorem tickWrites_answers (t : Nat) (raw : Bool) (s : State) : (tickWrites t raw s).answers = s.answers := rfl
@[simp] theorem tickWrites_draws (t : Nat) (raw : Bool) (s : State) : (tickWrites t raw s).draws = s.draws := rfl
@[simp] theorem tickWrites_out (t : Nat) (raw : Bool) (s : State) : (tickWrites t raw s).out = s.out := rfl

end Sys2Proof.Machine
end

