-- ==== Sys2Proof/Laws/Ops.lean ====
section
/-! SUPPORT. For each shared operation one lemma that says everything it can do, for proofs to cite. -/

namespace Sys2Proof.Machine

/-! ### The transmit primitive -/

theorem limitOutcome_legal {n : Nat} (h : 0 < n) (o : SendOutcome) : outcomeLegal n (limitOutcome n o) = true := by
  cases o with
  | sent => rfl
  | failed k => simpa [limitOutcome, outcomeLegal] using Nat.mod_lt k h

theorem limitOutcome_of_legal {n : Nat} {o : SendOutcome} (h : outcomeLegal n o = true) : limitOutcome n o = o := by
  cases o with
  | sent => rfl
  | failed k => simp only [outcomeLegal, decide_eq_true_eq] at h; simp [limitOutcome, Nat.mod_eq_of_lt h]

theorem nextOutcome_legal (s : State) {n : Nat} (h : 0 < n) : outcomeLegal n (nextOutcome s n) = true :=
  limitOutcome_legal h _

/-- The drawn outcome depends on the settled answers and the draw counter only. -/
theorem nextOutcome_congr {s t : State} (ha : t.answers = s.answers) (hd : t.draws = s.draws) (n : Nat) :
    nextOutcome t n = nextOutcome s n := by
  simp [nextOutcome, ha, hd]

/-! ### The session buffer -/

theorem pushByte_ok {p : Params} {d d' : Decoder} {b : Byte} (h : pushByte p d b = .ok d') :
    d' = { d with buf := d.buf ++ [b] } ∧ d.buf.length < p.capacity := by
  unfold pushByte at h
  split at h
  · exact ⟨by cases h; rfl, ‹_›⟩
  · cases h

theorem pushByte_of_lt {p : Params} {d : Decoder} (h : d.buf.length < p.capacity) (b : Byte) :
    pushByte p d b = .ok { d with buf := d.buf ++ [b] } := by
  simp [pushByte, h]

/-- A push keeps the buffer inside its capacity. -/
theorem pushByte_keeps_capacity {p : Params} {d d' : Decoder} {b : Byte} (h : pushByte p d b = .ok d') :
    d'.buf.length ≤ p.capacity := by
  obtain ⟨rfl, hlt⟩ := pushByte_ok h
  simpa using hlt

theorem readBuf_ok {buf : Bytes} {i : Nat} {b : Byte} : readBuf buf i = .ok b ↔ buf[i]? = some b := by
  unfold readBuf
  cases buf[i]? <;> simp

theorem readRange_ok {buf x : Bytes} {lo hi : Nat} (h : readRange buf lo hi = .ok x) :
    hi ≤ buf.length ∧ x = (buf.take hi).drop lo := by
  unfold readRange at h
  split at h
  · exact ⟨‹_›, by cases h; rfl⟩
  · cases h

/-- What a completed frame's record holds (R127). -/
theorem splitFrame_ok {d : Decoder} {f : Frame} (h : splitFrame d = .ok f) :
    ∃ len, d.buf[1]? = some len ∧ d.buf[2]? = some f.eventId ∧ d.buf[d.buf.length - 1]? = some f.checksumRx ∧
      len.toNat + 2 ≤ d.buf.length ∧ f.payload = (d.buf.take (len.toNat + 2)).drop 3 ∧
      f.checksumCalc = d.crcAcc := by
  unfold splitFrame at h
  split at h
  · next len id rx h1 h2 h3 =>
    split at h
    · next p hp =>
      cases h
      obtain ⟨hle, rfl⟩ := readRange_ok hp
      exact ⟨len, readBuf_ok.1 h1, readBuf_ok.1 h2, readBuf_ok.1 h3, hle, rfl, rfl⟩
    · cases h
  all_goals cases h

theorem splitFrame_of_reads {d : Decoder} {len id rx : Byte} (h1 : d.buf[1]? = some len) (h2 : d.buf[2]? = some id)
    (h3 : d.buf[d.buf.length - 1]? = some rx) (hle : len.toNat + 2 ≤ d.buf.length) :
    splitFrame d = .ok
      { eventId := id, payload := (d.buf.take (len.toNat + 2)).drop 3, checksumRx := rx, checksumCalc := d.crcAcc } := by
  simp [splitFrame, readBuf_ok.2 h1, readBuf_ok.2 h2, readBuf_ok.2 h3, readRange, hle]

/-! ### The checksum unit -/

/-- The loop of R101 continues from the register value it has reached. -/
theorem crc8From_append (c : Byte) (s t : Bytes) : crc8From c (s ++ t) = crc8From (crc8From c s) t :=
  List.foldl_append

theorem crc8_snoc (s : Bytes) (b : Byte) : crc8 (s ++ [b]) = crc8Step (crc8 s) b :=
  crc8From_append 0 s [b]

theorem frameValid_iff {rx computed : Byte} : frameValid rx computed = true ↔ rx = computed := by
  simp [frameValid]

/-! ### The encoder -/

theorem encodeEvent_of_fits {cap : Nat} {p : Bytes} (h : payloadFits cap p = true) (id : Byte) :
    encodeEvent cap id p = .ok (frameBytes id p (crc8 (coveredRegion id p))) := by
  simp only [payloadFits, Bool.and_eq_true, decide_eq_true_eq] at h
  have : ¬ (p.length > cap - 4 ∨ p.length > 254) := by omega
  simp [encodeEvent, this]

/-- The outbound frame of a presence value, as the block sends it (R79). -/
theorem sendCarDetected_eq (v : Bool) (s : State) :
    sendCarDetected v s =
      send .main (if v then [0xAA, 0x02, 0x03, 0x01, 0xEE] else [0xAA, 0x02, 0x03, 0x00, 0xE9]) s := by
  have hf : payloadFits s.params.capacity [boolByte v] = true := by
    simp [payloadFits, Params.capacity]
  have hb : frameBytes cardetId [boolByte v] (crc8 (coveredRegion cardetId [boolByte v])) =
      if v then [0xAA, 0x02, 0x03, 0x01, 0xEE] else [0xAA, 0x02, 0x03, 0x00, 0xE9] := by
    cases v <;> decide +kernel
  simp only [sendCarDetected, encodeCarDetected, encodeEvent_of_fits hf, hb]

/-! ### Display texts -/

theorem displayable_length (p : Params) (t : Bytes) : (displayable p t).length ≤ payloadLimit p.capacity :=
  List.length_take_le _ _

/-- A text that fits is displayed whole. -/
theorem displayable_of_fits {p : Params} {t : Bytes} (h : t.length ≤ payloadLimit p.capacity) : displayable p t = t :=
  List.take_of_length_le h

theorem lotFullText_length (p : Params) (flag : Bool) : (lotFullText p flag).length ≤ payloadLimit p.capacity := by
  unfold lotFullText
  split <;> exact displayable_length _ _

/-! ### Empty arguments -/

/-- What `EMPTY_ARG(ActSet)` can do (R152). -/
theorem emptyArgAct_cases (s : State) :
    (s.params.emptyArgPolicy = .ignore ∧ emptyArgAct s = s) ∨
    (s.params.emptyArgPolicy = .draw ∧
      (emptyArgAct s = { s with draws := s.draws + 1 } ∨
        ∃ a : Fin 181, emptyArgAct s = { s with draws := s.draws + 1, out := s.out ++ [.act (angleByte a)] })) := by
  unfold emptyArgAct
  cases h : s.params.emptyArgPolicy with
  | ignore => exact .inl ⟨rfl, rfl⟩
  | draw =>
    refine .inr ⟨rfl, ?_⟩
    cases Config.drawnAngle s.draws with
    | none => exact .inl rfl
    | some a => exact .inr ⟨a, rfl⟩

/-- What `EMPTY_ARG(DispShow)` can do (R152). -/
theorem emptyArgDisp_cases (s : State) :
    (s.params.emptyArgPolicy = .ignore ∧ emptyArgDisp s = s) ∨
    (s.params.emptyArgPolicy = .draw ∧
      (emptyArgDisp s = { s with draws := s.draws + 1 } ∨
        ∃ x : Bytes, x.length ≤ payloadLimit s.params.capacity ∧
          emptyArgDisp s = { s with draws := s.draws + 1, out := s.out ++ [.disp x] })) := by
  unfold emptyArgDisp
  cases h : s.params.emptyArgPolicy with
  | ignore => exact .inl ⟨rfl, rfl⟩
  | draw =>
    refine .inr ⟨rfl, ?_⟩
    cases Config.drawnText s.draws with
    | none => exact .inl rfl
    | some x => exact .inr ⟨_, displayable_length _ _, rfl⟩

theorem angleByte_le (a : Fin 181) : (angleByte a).toNat ≤ 180 := by
  have := a.isLt
  simp only [angleByte, toByte, BitVec.toNat_ofNat]
  omega

theorem clampAngle_toNat (b : Byte) : (clampAngle b).toNat = min b.toNat 180 := by
  revert b; decide +kernel

end Sys2Proof.Machine
end

