-- ==== Sys2Proof/Laws/PerInstr.lean ====
section
/-! SUPPORT. Laws about every instruction as syntax, one lemma per constructor. -/

namespace Sys2Proof.Laws

/-- The frame record made of a well-formed instruction's own fields is classified as that instruction. -/
def FrameRoundTrip.Statement (i : Instr) : Prop :=
  ∀ cap : Nat, wellFormed cap i = true → payloadFits cap (payloadOf i) = true ∧ frameInstr (frameOf i) = i

/-- For an instruction without checksum fields of its own it is enough that its event id selects its row. -/
theorem FrameRoundTrip.of_row {i : Instr} (hw : ∀ cap, wellFormed cap i = payloadFits cap (payloadOf i))
    (hc : checksumOf i = Machine.crc8 (Machine.coveredRegion (eventIdOf i) (payloadOf i)))
    (hr : setPayload (payloadOf i) (eventInstr (eventIdOf i) []) = i) : FrameRoundTrip.Statement i := by
  intro cap h
  refine ⟨by rw [← hw]; exact h, ?_⟩
  simp only [frameInstr, frameOf, hc, Machine.frameValid, beq_self_eq_true, if_true]
  rw [eventInstr_payload, hr]

theorem FrameRoundTrip.display (p : Bytes) : FrameRoundTrip.Statement (.display p) :=
  of_row (fun _ => rfl) rfl rfl
theorem FrameRoundTrip.setact (p : Bytes) : FrameRoundTrip.Statement (.setact p) :=
  of_row (fun _ => rfl) rfl rfl
theorem FrameRoundTrip.cardet (p : Bytes) : FrameRoundTrip.Statement (.cardet p) :=
  of_row (fun _ => rfl) rfl rfl
theorem FrameRoundTrip.plate (p : Bytes) : FrameRoundTrip.Statement (.plate p) :=
  of_row (fun _ => rfl) rfl rfl
theorem FrameRoundTrip.lotfull (p : Bytes) : FrameRoundTrip.Statement (.lotfull p) :=
  of_row (fun _ => rfl) rfl rfl
theorem FrameRoundTrip.unknown00 (p : Bytes) : FrameRoundTrip.Statement (.unknown00 p) :=
  of_row (fun _ => rfl) rfl rfl

theorem FrameRoundTrip.unknown06to07 (l : BitVec 1) (p : Bytes) : FrameRoundTrip.Statement (.unknown06to07 l p) := by
  have h : ∀ l : BitVec 1, eventInstr (0x06 ||| l.setWidth 8) [] = .unknown06to07 l [] := by decide +kernel
  exact of_row (fun _ => rfl) rfl (by simp only [eventIdOf, h]; rfl)
theorem FrameRoundTrip.unknown08to0F (l : BitVec 3) (p : Bytes) : FrameRoundTrip.Statement (.unknown08to0F l p) := by
  have h : ∀ l : BitVec 3, eventInstr (0x08 ||| l.setWidth 8) [] = .unknown08to0F l [] := by decide +kernel
  exact of_row (fun _ => rfl) rfl (by simp only [eventIdOf, h]; rfl)
theorem FrameRoundTrip.unknown10to1F (l : BitVec 4) (p : Bytes) : FrameRoundTrip.Statement (.unknown10to1F l p) := by
  have h : ∀ l : BitVec 4, eventInstr (0x10 ||| l.setWidth 8) [] = .unknown10to1F l [] := by decide +kernel
  exact of_row (fun _ => rfl) rfl (by simp only [eventIdOf, h]; rfl)
theorem FrameRoundTrip.unknown20to3F (l : BitVec 5) (p : Bytes) : FrameRoundTrip.Statement (.unknown20to3F l p) := by
  have h : ∀ l : BitVec 5, eventInstr (0x20 ||| l.setWidth 8) [] = .unknown20to3F l [] := by decide +kernel
  exact of_row (fun _ => rfl) rfl (by simp only [eventIdOf, h]; rfl)
theorem FrameRoundTrip.unknown40to7F (l : BitVec 6) (p : Bytes) : FrameRoundTrip.Statement (.unknown40to7F l p) := by
  have h : ∀ l : BitVec 6, eventInstr (0x40 ||| l.setWidth 8) [] = .unknown40to7F l [] := by decide +kernel
  exact of_row (fun _ => rfl) rfl (by simp only [eventIdOf, h]; rfl)
theorem FrameRoundTrip.unknown80toFF (l : BitVec 7) (p : Bytes) : FrameRoundTrip.Statement (.unknown80toFF l p) := by
  have h : ∀ l : BitVec 7, eventInstr (0x80 ||| l.setWidth 8) [] = .unknown80toFF l [] := by decide +kernel
  exact of_row (fun _ => rfl) rfl (by simp only [eventIdOf, h]; rfl)

theorem FrameRoundTrip.invalidFrame (id : Byte) (p : Bytes) (rx computed : Byte) :
    FrameRoundTrip.Statement (.invalidFrame id p rx computed) := by
  intro cap h
  simp only [wellFormed, checksumsAreInvalid, Bool.and_eq_true, beq_iff_eq, Bool.not_eq_true'] at h
  obtain ⟨hfit, hc, hv⟩ := h
  refine ⟨hfit, ?_⟩
  simp only [frameInstr, frameOf, eventIdOf, payloadOf, checksumOf, ← hc, hv, Bool.false_eq_true, if_false]

end Sys2Proof.Laws
end

