-- ==== Sys2Proof/Laws/Step.lean ====
section
/-! SUPPORT. What the dispatcher, a received byte and a step can do, said once: later proofs cite these and unfold
nothing. -/

namespace Sys2Proof.Machine

/-! ### The dispatcher -/

/-- The labels of an action: none, one angle in range, or one text (R144 to R149). -/
abbrev ActionLabels (p : Params) (payload : Bytes) (w : List Label) : Prop :=
  w = [] ∨ (∃ a : Byte, a.toNat ≤ 180 ∧ w = [.act a]) ∨
  (∃ x : Bytes, (x.length ≤ payloadLimit p.capacity ∨ x = payload) ∧ w = [.disp x])

/-- Everything a dispatch can do: it always gives a next state, changes nothing but draws and labels, and its labels
are a checksum error with the ERR reply, or the OK reply with an action. -/
theorem exec_spec (i : Instr) (s : State) :
    ∃ t, exec i s = .next t ∧ SameBlock s t ∧ t.answers = s.answers.tail ∧
      ((∃ id p rx computed, i = .invalidFrame id p rx computed ∧
          t.out = s.out ++ .err (.checksum rx computed) :: sendLabels .rx errReply (nextOutcome s 4)) ∨
       ((∀ id p rx computed, i ≠ .invalidFrame id p rx computed) ∧
          ∃ w, ActionLabels s.params (payloadOf i) w ∧
            t.out = s.out ++ sendLabels .rx okReply (nextOutcome s 3) ++ w)) := by
  have hack : ∀ w : List Label, (replyOk s).out ++ w = s.out ++ sendLabels .rx okReply (nextOutcome s 3) ++ w :=
    fun w => by simp [replyOk, okReply]
  have hact : ∃ t, emptyArgAct (replyOk s) = t ∧ SameBlock s t ∧ t.answers = s.answers.tail ∧
      ∃ w, ActionLabels s.params [] w ∧ t.out = s.out ++ sendLabels .rx okReply (nextOutcome s 3) ++ w := by
    rcases emptyArgAct_cases (replyOk s) with ⟨-, h⟩ | ⟨-, h | ⟨a, h⟩⟩
    · exact ⟨_, h, by simp [SameBlock, replyOk], by simp [replyOk], [], .inl rfl, by simpa using hack []⟩
    · exact ⟨_, h, by simp [SameBlock, replyOk], by simp [replyOk], [], .inl rfl, by simpa using hack []⟩
    · exact ⟨_, h, by simp [SameBlock, replyOk], by simp [replyOk], _, .inr (.inl ⟨_, angleByte_le a, rfl⟩), hack _⟩
  have hdisp : ∃ t, emptyArgDisp (replyOk s) = t ∧ SameBlock s t ∧ t.answers = s.answers.tail ∧
      ∃ w, ActionLabels s.params [] w ∧ t.out = s.out ++ sendLabels .rx okReply (nextOutcome s 3) ++ w := by
    rcases emptyArgDisp_cases (replyOk s) with ⟨-, h⟩ | ⟨-, h | ⟨x, hx, h⟩⟩
    · exact ⟨_, h, by simp [SameBlock, replyOk], by simp [replyOk], [], .inl rfl, by simpa using hack []⟩
    · exact ⟨_, h, by simp [SameBlock, replyOk], by simp [replyOk], [], .inl rfl, by simpa using hack []⟩
    · exact ⟨_, h, by simp [SameBlock, replyOk], by simp [replyOk], _,
        .inr (.inr ⟨x, .inl (by simpa [replyOk] using hx), rfl⟩), hack _⟩
  have hplain : SameBlock s (replyOk s) ∧ (replyOk s).answers = s.answers.tail := by simp [SameBlock, replyOk]
  cases i with
  | display p =>
    exact ⟨_, rfl, by simp [SameBlock, replyOk], by simp [replyOk], .inr ⟨by simp, _,
      .inr (.inr ⟨p, .inr rfl, rfl⟩), hack _⟩⟩
  | setact p =>
    cases p with
    | nil =>
      obtain ⟨t, ht, hb, ha, hw⟩ := hact
      exact ⟨t, by rw [← ht]; rfl, hb, ha, .inr ⟨by simp, hw⟩⟩
    | cons b q =>
      exact ⟨_, rfl, by simp [SameBlock, replyOk], by simp [replyOk], .inr ⟨by simp, _,
        .inr (.inl ⟨clampAngle b, by rw [clampAngle_toNat]; omega, rfl⟩), hack _⟩⟩
  | plate p =>
    cases p with
    | nil =>
      obtain ⟨t, ht, hb, ha, hw⟩ := hact
      exact ⟨t, by rw [← ht]; rfl, hb, ha, .inr ⟨by simp, hw⟩⟩
    | cons b q =>
      refine ⟨_, rfl, by simp [SameBlock, replyOk], by simp [replyOk], .inr ⟨by simp, _,
        .inr (.inl ⟨plateAngle s.params (boolOf s.params.boolDecode b), ?_, rfl⟩), hack _⟩⟩
      unfold plateAngle
      split <;> exact angleByte_le _
  | lotfull p =>
    cases p with
    | nil =>
      obtain ⟨t, ht, hb, ha, hw⟩ := hdisp
      exact ⟨t, by rw [← ht]; rfl, hb, ha, .inr ⟨by simp, hw⟩⟩
    | cons b q =>
      refine ⟨_, rfl, by simp [SameBlock, replyOk], by simp [replyOk], .inr ⟨by simp, _,
        .inr (.inr ⟨lotFullText s.params (boolOf s.params.boolDecode b), .inl (lotFullText_length _ _), rfl⟩), hack _⟩⟩
  | invalidFrame id p rx computed =>
    refine ⟨_, rfl, by simp [SameBlock], by simp, .inl ⟨id, p, rx, computed, rfl, ?_⟩⟩
    simp [errReply, nextOutcome]
  | cardet p => exact ⟨_, rfl, hplain.1, hplain.2, .inr ⟨by simp, [], .inl rfl, by simpa using hack []⟩⟩
  | unknown00 p => exact ⟨_, rfl, hplain.1, hplain.2, .inr ⟨by simp, [], .inl rfl, by simpa [ackOnly] using hack []⟩⟩
  | unknown06to07 l p =>
    exact ⟨_, rfl, hplain.1, hplain.2, .inr ⟨by simp, [], .inl rfl, by simpa [ackOnly] using hack []⟩⟩
  | unknown08to0F l p =>
    exact ⟨_, rfl, hplain.1, hplain.2, .inr ⟨by simp, [], .inl rfl, by simpa [ackOnly] using hack []⟩⟩
  | unknown10to1F l p =>
    exact ⟨_, rfl, hplain.1, hplain.2, .inr ⟨by simp, [], .inl rfl, by simpa [ackOnly] using hack []⟩⟩
  | unknown20to3F l p =>
    exact ⟨_, rfl, hplain.1, hplain.2, .inr ⟨by simp, [], .inl rfl, by simpa [ackOnly] using hack []⟩⟩
  | unknown40to7F l p =>
    exact ⟨_, rfl, hplain.1, hplain.2, .inr ⟨by simp, [], .inl rfl, by simpa [ackOnly] using hack []⟩⟩
  | unknown80toFF l p =>
    exact ⟨_, rfl, hplain.1, hplain.2, .inr ⟨by simp, [], .inl rfl, by simpa [ackOnly] using hack []⟩⟩

/-! ### A received byte -/

/-- The decoder with the completing byte pushed and counted. -/
abbrev filled (d : Decoder) (b : Byte) : Decoder := { d with buf := d.buf ++ [b], remaining := 0 }

/-- Everything a received byte can do when it gives a next state, one case per rule (R121 to R129). -/
theorem rxByte_cases {b : Byte} {s t : State} (h : rxByte b s = .next t) :
    (s.dec.state = .idle ∧ b = startMarker ∧
      t = setDec { s.dec with state := .readingLength, buf := [b] } s) ∨
    (s.dec.state = .idle ∧ b ≠ startMarker ∧ t = s) ∨
    (s.dec.state = .readingLength ∧ s.dec.buf.length < s.params.capacity ∧ b.toNat + 3 > s.params.capacity ∧
      t = setDec { s.dec with state := .idle, buf := [] } (raise (.overflow b) s)) ∨
    (s.dec.state = .readingLength ∧ s.dec.buf.length < s.params.capacity ∧ b.toNat + 3 ≤ s.params.capacity ∧
      b = 0x00 ∧ t = setDec { s.dec with state := .idle, buf := [] } (raise (.badLength b) s)) ∨
    (s.dec.state = .readingLength ∧ s.dec.buf.length < s.params.capacity ∧ b.toNat + 3 ≤ s.params.capacity ∧
      b ≠ 0x00 ∧ t = setDec (acceptLength { s.dec with buf := s.dec.buf ++ [b] } b) s) ∨
    (s.dec.state = .readingPayload ∧ s.dec.buf.length < s.params.capacity ∧ 2 ≤ s.dec.remaining ∧
      t = setDec { s.dec with
        buf := s.dec.buf ++ [b], remaining := s.dec.remaining - 1, crcAcc := crc8Step s.dec.crcAcc b } s) ∨
    (s.dec.state = .readingPayload ∧ s.dec.buf.length < s.params.capacity ∧ s.dec.remaining = 1 ∧
      ∃ f, splitFrame (filled s.dec b) = .ok f ∧
        exec (frameInstr f) (setDec (endSession (filled s.dec b)) s) = .next t) := by
  unfold rxByte at h
  split at h
  · next hs =>
    unfold rxIdle at h
    split at h
    · exact .inl ⟨hs, ‹_›, by cases h; rfl⟩
    · exact .inr (.inl ⟨hs, ‹_›, by cases h; rfl⟩)
  · next hs =>
    unfold rxLength at h
    split at h
    · cases h
    · next d hd =>
      obtain ⟨rfl, hlt⟩ := pushByte_ok hd
      split at h
      · exact .inr (.inr (.inl ⟨hs, hlt, ‹_›, by cases h; rfl⟩))
      · have hle : b.toNat + 3 ≤ s.params.capacity := by omega
        split at h
        · exact .inr (.inr (.inr (.inl ⟨hs, hlt, hle, ‹_›, by cases h; rfl⟩)))
        · exact .inr (.inr (.inr (.inr (.inl ⟨hs, hlt, hle, ‹_›, by cases h; rfl⟩))))
  · next hs =>
    unfold rxPayload at h
    split at h
    · cases h
    · next d hd =>
      obtain ⟨rfl, hlt⟩ := pushByte_ok hd
      split at h
      · cases h
      · next hr =>
        unfold completeFrame at h
        split at h
        · cases h
        · next f hf =>
          exact .inr (.inr (.inr (.inr (.inr (.inr ⟨hs, hlt, hr, f, hf, h⟩)))))
      · next n hr =>
        dsimp only at hr
        refine .inr (.inr (.inr (.inr (.inr (.inl ⟨hs, hlt, by omega, ?_⟩)))))
        cases h
        simp [hr]

/-- A received byte never refuses. -/
theorem rxByte_ne_refused (b : Byte) (s : State) (r : Refusal) : rxByte b s ≠ .refused r := by
  unfold rxByte
  split
  · unfold rxIdle; split <;> simp
  · unfold rxLength; split
    · simp
    · split
      · simp
      · split <;> simp
  · unfold rxPayload completeFrame
    split
    · simp
    · split
      · simp
      · split
        · simp
        · next f _ =>
          obtain ⟨t, ht, -⟩ := exec_spec (frameInstr f)
            (setDec (endSession (filled s.dec b)) s)
          obtain ⟨rfl, -⟩ := pushByte_ok ‹_›
          simp [ht]
      · simp

/-! ### Runs -/

theorem runFor_zero (s : State) : runFor 0 s = .next s := rfl

/-- A run goes on from the state its first step gives. -/
theorem runFor_next {s t : State} (h : step s = .next t) (k : Nat) : runFor (k + 1) s = runFor k t := by
  simp only [runFor, h]

/-- A run of `j + k` steps is `k` steps after `j`, where the first `j` give a next state. -/
theorem runFor_add {s t : State} {j : Nat} (h : runFor j s = .next t) (k : Nat) : runFor (j + k) s = runFor k t := by
  induction j generalizing s with
  | zero => cases h; simp
  | succ j ih =>
    rw [Nat.succ_add]
    cases hs : step s with
    | next u => rw [runFor_next hs] at h; rw [Nat.succ_eq_add_one, runFor_next hs]; exact ih h
    | fault r => simp [runFor, hs] at h
    | refused r => simp [runFor, hs] at h

/-- The host's run of the machine is this run. -/
theorem core_run_eq (k : Nat) (s : State) : core.run k s = runFor k s := by
  induction k generalizing s with
  | zero => rfl
  | succ k ih =>
    cases hs : step s with
    | next t =>
      have hc : core.step s = .next t := hs
      rw [runFor_next hs]
      simp only [Host.Core.run, hc]
      exact ih t
    | fault r =>
      have hc : core.step s = .fault r := hs
      simp only [Host.Core.run, hc, runFor, hs]; rfl
    | refused r =>
      have hc : core.step s = .refused r := hs
      simp only [Host.Core.run, hc, runFor, hs]; rfl

/-! ### A tick and a step -/

/-- A tick writes presence state and clock, and makes zero, one, or one of two `Send` calls (R163 to R165). -/
theorem tickBody_cases (t : Nat) (raw : Bool) (s : State) :
    (changeFires s.params t raw s.pres = false ∧ heartbeatFires s.params t raw s.pres = false ∧
      tickBody t raw s = tickWrites t raw s) ∨
    (changeFires s.params t raw s.pres = true ∧ heartbeatFires s.params t raw s.pres = true ∧
      tickBody t raw s =
        { sendCarDetected (tickPresence s.params t raw s.pres).debounced (tickWrites t raw s) with midTick := true }) ∨
    (changeFires s.params t raw s.pres ≠ heartbeatFires s.params t raw s.pres ∧
      tickBody t raw s = sendCarDetected (tickPresence s.params t raw s.pres).debounced (tickWrites t raw s)) := by
  unfold tickBody
  cases changeFires s.params t raw s.pres <;> cases heartbeatFires s.params t raw s.pres <;> simp

/-- Everything a step can do when it gives a next state, one case per kind of move. -/
theorem step_cases {s t : State} (h : step s = .next t) :
    (∃ b rest, s.inputs = .rx b :: rest ∧ rxByte b { s with inputs := rest } = .next t) ∨
    (s.inputs = [] ∧ s.midTick = true ∧ t = finishTick s) ∨
    (s.inputs = [] ∧ s.midTick = false ∧ t = s) ∨
    (∃ now raw rest, s.inputs = .tick now raw :: rest ∧ s.midTick = true ∧ t = finishTick s) ∨
    (∃ now raw rest, s.inputs = .tick now raw :: rest ∧ s.midTick = false ∧
      clockOk { s with inputs := rest } (stamp s.params now) = true ∧
      t = tickBody (stamp s.params now) raw { s with inputs := rest }) ∨
    (∃ rest, s.inputs = .resume :: rest ∧ s.midTick = true ∧ t = finishTick { s with inputs := rest }) ∨
    (∃ rest, s.inputs = .resume :: rest ∧ s.midTick = false ∧ t = { s with inputs := rest }) ∨
    (∃ rest, s.inputs = .reset :: rest ∧ t = powerOn { s with inputs := rest }) := by
  unfold step at h
  split at h
  · next hi =>
    split at h
    · exact .inr (.inl ⟨hi, ‹_›, by cases h; rfl⟩)
    · exact .inr (.inr (.inl ⟨hi, by simpa using ‹¬ s.midTick = true›, by cases h; rfl⟩))
  · next b rest hi => exact .inl ⟨b, rest, hi, h⟩
  · next now raw rest hi =>
    split at h
    · exact .inr (.inr (.inr (.inl ⟨now, raw, rest, hi, ‹_›, by cases h; rfl⟩)))
    · next hm =>
      unfold tick at h
      split at h
      · exact .inr (.inr (.inr (.inr (.inl ⟨now, raw, rest, hi, by simpa using hm, ‹_›, by cases h; rfl⟩))))
      · cases h
  · next rest hi =>
    split at h
    · exact .inr (.inr (.inr (.inr (.inr (.inl ⟨rest, hi, ‹_›, by cases h; rfl⟩)))))
    · exact .inr (.inr (.inr (.inr (.inr (.inr (.inl
        ⟨rest, hi, by simpa using ‹¬ s.midTick = true›, by cases h; rfl⟩))))))
  · next rest hi => exact .inr (.inr (.inr (.inr (.inr (.inr (.inr ⟨rest, hi, by cases h; rfl⟩))))))

end Sys2Proof.Machine
end

