-- ==== Sys2Proof/Tests/Slice0.lean ====
section
/-! SUPPORT. Tests, each of one step or one decoding, with expected values from the spec's tables (the vector's name
stands in the comment), and a witness for the hypotheses of each statement. -/

namespace Sys2Proof.Tests

open Sys2Proof Sys2Proof.Machine

-- One after another: many kernel evaluations at once ask for a thread each.
set_option Elab.async false

/-! ### Small states -/

/-- The instance of 95_test_vectors, with two angles and two texts of our own. -/
def params32 : Params where
  capacityExtra := 27
  openAngle := 90
  closedAngle := 7
  lotFullBytesTrue := [0x46]
  lotFullBytesFalse := [0x4E, 0x4F]
  timeWidth := none
  initPresence := false
  tReset := 0
  boolDecode := .nonzero
  emptyArgPolicy := .ignore

/-- After reset, with one settled answer and one move to come. -/
def ready (o : SendOutcome) (e : InputEvent) : State :=
  { State.resetWith params32 with answers := [o], inputs := [e] }

/-- The decoder in `ReadingLength`, about to take `b`. -/
def atLength (b : Byte) : State :=
  { ready .sent (.rx b) with dec := { decoderReset with state := .readingLength, buf := [0xAA] } }

/-- The decoder in `ReadingPayload` with `buf` taken, about to take `b`. -/
def atPayload (buf : Bytes) (remaining expected : Nat) (acc b : Byte) : State :=
  { ready .sent (.rx b) with
    dec := { state := .readingPayload, buf := buf, remaining := remaining, expectedLen := expected, crcAcc := acc } }

/-- The presence state written as in 95_test_vectors, about to take a tick. -/
def atTick (lastRaw debounced : Bool) (transition send now : Nat) (raw : Bool) : State :=
  { ready .sent (.tick now raw) with pres := ⟨lastRaw, debounced, transition, send⟩ }

def isNext : Host.Outcome State Fault Refusal → Bool
  | .next _ => true
  | .fault _ => false
  | .refused _ => false

theorem of_isNext {o : Host.Outcome State Fault Refusal} (h : isNext o = true) : ∃ t, o = .next t := by
  cases o with
  | next t => exact ⟨t, rfl⟩
  | fault r => cases h
  | refused r => cases h

/-- The labels of a step from a state with none. -/
def labels : Host.Outcome State Fault Refusal → Option (List Label)
  | .next t => some t.out
  | .fault _ => none
  | .refused _ => none

/-- The decoder after a step, with the labels. -/
def decAfter : Host.Outcome State Fault Refusal → Option (Decoder × List Label)
  | .next t => some (t.dec, t.out)
  | .fault _ => none
  | .refused _ => none

/-- The presence state after a step, with the labels and whether a heartbeat is still to come. -/
def presAfter : Host.Outcome State Fault Refusal → Option (Presence × List Label × Bool)
  | .next t => some (t.pres, t.out, t.midTick)
  | .fault _ => none
  | .refused _ => none

def okSent : Label := .tx .rx [0x4F, 0x4B, 0x0A] .sent
def errSent : Label := .tx .rx [0x45, 0x52, 0x52, 0x0A] .sent
def carTrue : Label := .tx .main [0xAA, 0x02, 0x03, 0x01, 0xEE] .sent
def carFalse : Label := .tx .main [0xAA, 0x02, 0x03, 0x00, 0xE9] .sent

/-! ### Well-formedness refuses each ill-formed term -/

/-- R78: 28 payload bytes fill 32, one more does not fit. -/
theorem test_wf_capacity_bound :
    wellFormed 32 (.display (List.replicate 28 0x41)) = true ∧
    wellFormed 32 (.display (List.replicate 29 0x41)) = false := by decide +kernel

/-- R78, D5: in any buffers at most 254 payload bytes, because the length is one byte. -/
theorem test_wf_length_bound :
    wellFormed 1000 (.setact (List.replicate 254 0)) = true ∧
    wellFormed 1000 (.setact (List.replicate 255 0)) = false := by decide +kernel

/-- R142: an invalid frame's checksums differ, and the computed one is the CRC of the covered region. -/
theorem test_wf_invalid_frame :
    wellFormed 32 (.invalidFrame 0x03 [0x01] 0x00 0xEE) = true ∧
    wellFormed 32 (.invalidFrame 0x03 [0x01] 0xEE 0xEE) = false ∧
    wellFormed 32 (.invalidFrame 0x03 [0x01] 0x00 0xEF) = false := by decide +kernel

/-! ### Decoding: one word at least for each constructor -/

/-- S1. -/
theorem test_decode_display : decode 32 [0xAA, 0x06, 0x01, 0x52, 0x65, 0x61, 0x64, 0x79, 0xA7] =
    .ok (.display [0x52, 0x65, 0x61, 0x64, 0x79], []) := by decide +kernel
/-- X10. -/
theorem test_decode_setact : decode 32 [0xAA, 0x03, 0x02, 0xB4, 0x00, 0xF7, 0xAA] =
    .ok (.setact [0xB4, 0x00], [0xAA]) := by decide +kernel
/-- X14. -/
theorem test_decode_cardet : decode 32 [0xAA, 0x01, 0x03, 0x1C] = .ok (.cardet [], []) := by decide +kernel
/-- X17. -/
theorem test_decode_plate : decode 32 [0xAA, 0x02, 0x04, 0x02, 0x8C] = .ok (.plate [0x02], []) := by decide +kernel
/-- X21. -/
theorem test_decode_lotfull : decode 32 [0xAA, 0x02, 0x05, 0xAA, 0xC8] = .ok (.lotfull [0xAA], []) := by
  decide +kernel
/-- X23. -/
theorem test_decode_unknown00 : decode 32 [0xAA, 0x01, 0x00, 0x15] = .ok (.unknown00 [], []) := by decide +kernel
/-- X24, and id 07 with its checksum worked out from R100. -/
theorem test_decode_unknown06to07 :
    decode 32 [0xAA, 0x01, 0x06, 0x07] = .ok (.unknown06to07 0 [], []) ∧
    decode 32 [0xAA, 0x01, 0x07, 0x00] = .ok (.unknown06to07 1 [], []) := by decide +kernel
/-- Checksums worked out from R100, at both ends of the row. -/
theorem test_decode_unknown08to0F :
    decode 32 [0xAA, 0x01, 0x08, 0x2D] = .ok (.unknown08to0F 0 [], []) ∧
    decode 32 [0xAA, 0x01, 0x0F, 0x38] = .ok (.unknown08to0F 7 [], []) := by decide +kernel
/-- Checksums worked out from R100, at both ends of the row. -/
theorem test_decode_unknown10to1F :
    decode 32 [0xAA, 0x01, 0x10, 0x65] = .ok (.unknown10to1F 0 [], []) ∧
    decode 32 [0xAA, 0x01, 0x1F, 0x48] = .ok (.unknown10to1F 15 [], []) := by decide +kernel
/-- Checksums worked out from R100, at both ends of the row. -/
theorem test_decode_unknown20to3F :
    decode 32 [0xAA, 0x01, 0x20, 0xF5] = .ok (.unknown20to3F 0 [], []) ∧
    decode 32 [0xAA, 0x01, 0x3F, 0xA8] = .ok (.unknown20to3F 31 [], []) := by decide +kernel
/-- Checksums worked out from R100, at both ends of the row. -/
theorem test_decode_unknown40to7F :
    decode 32 [0xAA, 0x01, 0x40, 0xD2] = .ok (.unknown40to7F 0 [], []) ∧
    decode 32 [0xAA, 0x01, 0x7F, 0x6F] = .ok (.unknown40to7F 63 [], []) := by decide +kernel
/-- X25, and id 80 with its checksum worked out from R100. -/
theorem test_decode_unknown80toFF :
    decode 32 [0xAA, 0x01, 0x80, 0x9C] = .ok (.unknown80toFF 0 [], []) ∧
    decode 32 [0xAA, 0x03, 0xFF, 0x12, 0x34, 0xE0] = .ok (.unknown80toFF 127 [0x12, 0x34], []) := by decide +kernel
/-- DV19. -/
theorem test_decode_invalid_frame :
    decode 32 [0xAA, 0x02, 0x83, 0x01, 0xEE] = .ok (.invalidFrame 0x83 [0x01] 0xEE 0x58, []) := by decide +kernel
/-- R77: a frame that ends early is refused by name. -/
theorem test_decode_truncated : decode 32 [0xAA, 0x02, 0x03, 0x01] = .error .truncated := by decide +kernel

/-! ### Checksum unit and encoder -/

/-- CK6, CK8, CK9, CK10, CK15. -/
theorem test_crc8 :
    crc8Step 0x00 0x55 = 0xAC ∧ crc8Step 0x00 0xAA = 0x5F ∧ crc8Step 0x00 0xFF = 0xF3 ∧ crc8 [] = 0x00 ∧
    crc8 [0x31, 0x32, 0x33, 0x34, 0x35, 0x36, 0x37, 0x38, 0x39] = 0xF4 := by decide +kernel
/-- EN4, EN9, and EN3 in the least buffers. -/
theorem test_encoder :
    encodeEvent 32 0x01 [0xAA, 0xAA] = .ok [0xAA, 0x03, 0x01, 0xAA, 0xAA, 0x94] ∧
    encodeEvent 32 0x01 (List.replicate 29 0x41) = .tooLong 29 ∧
    encodeEvent 5 0x01 [0x48, 0x69] = .tooLong 2 := by decide +kernel
/-- R90: a script expands line by line; a form that does not fit has no expansion. -/
theorem test_script_expansion :
    expandScript 32 [.raw [0xAA, 0x40], .frame 0x06 [], .tick 5 true, .reset] =
      some [.rx 0xAA, .rx 0x40, .rx 0xAA, .rx 0x01, .rx 0x06, .rx 0x07, .tick 5 true, .reset] ∧
    expandScript 5 [.display [0x48, 0x69]] = none := by decide +kernel

/-! ### One decoder step -/

/-- DV1 and DV3. -/
theorem test_step_idle :
    decAfter (step (ready .sent (.rx 0xAA))) =
      some ({ decoderReset with state := .readingLength, buf := [0xAA] }, []) ∧
    decAfter (step (ready .sent (.rx 0x4F))) = some (decoderReset, []) := by decide +kernel
/-- DV6, the largest accepted length. -/
theorem test_step_length_accepted :
    decAfter (step (atLength 0x1D)) = some (⟨.readingPayload, [0xAA, 0x1D], 30, 32, 0x53⟩, []) := by decide +kernel
/-- DV7, DV8, DV10. -/
theorem test_step_length_refused :
    decAfter (step (atLength 0x1E)) = some (decoderReset, [.err (.overflow 0x1E)]) ∧
    decAfter (step (atLength 0xAA)) = some (decoderReset, [.err (.overflow 0xAA)]) ∧
    decAfter (step (atLength 0x00)) = some (decoderReset, [.err (.badLength 0x00)]) := by decide +kernel
/-- DV15: the start marker inside a frame is an event id. -/
theorem test_step_marker_inside_frame :
    decAfter (step (atPayload [0xAA, 0x02] 3 5 0x0E 0xAA)) =
      some (⟨.readingPayload, [0xAA, 0x02, 0xAA], 2, 5, 0x75⟩, []) := by decide +kernel

/-! ### One step that completes a frame: every instruction -/

/-- X1. -/
theorem test_step_display :
    labels (step (atPayload [0xAA, 0x06, 0x01, 0x52, 0x65, 0x61, 0x64, 0x79] 1 9 0xA7 0xA7)) =
      some [okSent, .disp [0x52, 0x65, 0x61, 0x64, 0x79]] := by decide +kernel
/-- X2: the empty text is shown. -/
theorem test_step_display_empty :
    labels (step (atPayload [0xAA, 0x01, 0x01] 1 4 0x12 0x12)) = some [okSent, .disp []] := by decide +kernel
/-- The variant of X8 with `FAILED(0)`. -/
theorem test_step_setact_clamps_after_failed_reply :
    labels (step { atPayload [0xAA, 0x02, 0x02, 0xC8] 1 5 0x8A 0x8A with answers := [.failed 0] }) =
      some [.tx .rx [0x4F, 0x4B, 0x0A] (.failed 0), .err (.txFail .rx [0x4F, 0x4B, 0x0A] 0), .act 180] := by
  decide +kernel
/-- X10: the surplus byte is not read. -/
theorem test_step_setact_surplus :
    labels (step (atPayload [0xAA, 0x03, 0x02, 0xB4, 0x00] 1 6 0xF7 0xF7)) = some [okSent, .act 180] := by
  decide +kernel
/-- DV13 with the decoder's end state, and DV27. -/
theorem test_step_cardet :
    decAfter (step (atPayload [0xAA, 0x02, 0x03, 0x01] 1 5 0xEE 0xEE)) =
      some ({ decoderReset with crcAcc := 0xEE }, [okSent]) ∧
    labels (step { atPayload [0xAA, 0x02, 0x03, 0x01] 1 5 0xEE 0xEE with answers := [.failed 2] }) =
      some [.tx .rx [0x4F, 0x4B, 0x0A] (.failed 2), .err (.txFail .rx [0x4F, 0x4B, 0x0A] 2)] := by decide +kernel
/-- X16 and X17. -/
theorem test_step_plate :
    labels (step (atPayload [0xAA, 0x02, 0x04, 0x00] 1 5 0x82 0x82)) = some [okSent, .act 7] ∧
    labels (step (atPayload [0xAA, 0x02, 0x04, 0x02] 1 5 0x8C 0x8C)) = some [okSent, .act 90] := by decide +kernel
/-- X20 and X22. -/
theorem test_step_lotfull :
    labels (step (atPayload [0xAA, 0x02, 0x05, 0x00] 1 5 0x97 0x97)) = some [okSent, .disp [0x4E, 0x4F]] ∧
    labels (step (atPayload [0xAA, 0x01, 0x05] 1 4 0x0E 0x0E)) = some [okSent] := by decide +kernel
/-- X23. -/
theorem test_step_unknown00 :
    labels (step (atPayload [0xAA, 0x01, 0x00] 1 4 0x15 0x15)) = some [okSent] := by decide +kernel
/-- X24. -/
theorem test_step_unknown06to07 :
    labels (step (atPayload [0xAA, 0x01, 0x06] 1 4 0x07 0x07)) = some [okSent] := by decide +kernel
/-- R149; the checksum is worked out from R100. -/
theorem test_step_unknown08to0F :
    labels (step (atPayload [0xAA, 0x01, 0x0F] 1 4 0x38 0x38)) = some [okSent] := by decide +kernel
/-- R149; the checksum is worked out from R100. -/
theorem test_step_unknown10to1F :
    labels (step (atPayload [0xAA, 0x01, 0x1F] 1 4 0x48 0x48)) = some [okSent] := by decide +kernel
/-- R149; the checksum is worked out from R100. -/
theorem test_step_unknown20to3F :
    labels (step (atPayload [0xAA, 0x01, 0x3F] 1 4 0xA8 0xA8)) = some [okSent] := by decide +kernel
/-- R149; the checksum is worked out from R100. -/
theorem test_step_unknown40to7F :
    labels (step (atPayload [0xAA, 0x01, 0x7F] 1 4 0x6F 0x6F)) = some [okSent] := by decide +kernel
/-- X25. -/
theorem test_step_unknown80toFF :
    labels (step (atPayload [0xAA, 0x03, 0xFF, 0x12, 0x34] 1 6 0xE0 0xE0)) = some [okSent] := by decide +kernel
/-- X26, and DV14: the marker as a checksum byte. -/
theorem test_step_invalid_frame :
    labels (step (atPayload [0xAA, 0x02, 0x02, 0xC8] 1 5 0x8A 0x00)) =
      some [.err (.checksum 0x00 0x8A), errSent] ∧
    labels (step (atPayload [0xAA, 0x02, 0x03, 0x01] 1 5 0xEE 0xAA)) =
      some [.err (.checksum 0xAA 0xEE), errSent] := by decide +kernel

/-- R45: in the least buffers a `LotFull` text is one byte. -/
theorem test_lotfull_text_bound :
    ({ params32 with capacityExtra := 0 }).lotFullTextFalse = [0x4E] ∧ params32.lotFullTextFalse = [0x4E, 0x4F] := by
  decide

/-! ### One tick -/

/-- M1 and M2: 49 time-units do not suffice, 50 do. -/
theorem test_tick_debounce_bound :
    presAfter (step (atTick true false 40 0 89 true)) = some (⟨true, false, 40, 0⟩, [], false) ∧
    presAfter (step (atTick true false 40 0 90 true)) = some (⟨true, true, 40, 0⟩, [carTrue], false) := by
  decide +kernel
/-- M3, M4 and M5. -/
theorem test_tick_capture :
    presAfter (step (atTick false false 0 0 10 true)) = some (⟨true, false, 10, 0⟩, [], false) ∧
    presAfter (step (atTick true false 10 0 30 false)) = some (⟨false, false, 30, 0⟩, [], false) ∧
    presAfter (step (atTick false true 100 0 150 false)) = some (⟨false, false, 100, 0⟩, [carFalse], false) := by
  decide +kernel
/-- M6. -/
theorem test_tick_failed_send :
    presAfter (step { atTick true false 40 0 90 true with answers := [.failed 0] }) =
      some (⟨true, true, 40, 0⟩,
        [.tx .main [0xAA, 0x02, 0x03, 0x01, 0xEE] (.failed 0),
         .err (.txFail .main [0xAA, 0x02, 0x03, 0x01, 0xEE] 0)], false) := by decide +kernel
/-- M7 and M8. -/
theorem test_tick_heartbeat_bound :
    presAfter (step (atTick false false 0 0 999 false)) = some (⟨false, false, 0, 0⟩, [], false) ∧
    presAfter (step (atTick false false 0 0 1000 false)) = some (⟨false, false, 0, 1000⟩, [carFalse], false) := by
  decide +kernel
/-- M9, its first `Send`: the second one is still to come. -/
theorem test_tick_both_triggers :
    presAfter (step (atTick true false 960 0 1010 true)) = some (⟨true, true, 960, 1010⟩, [carTrue], true) := by
  decide +kernel
/-- M9, its second `Send`, made when no input is left. -/
theorem test_tick_second_send :
    presAfter (step { atTick true true 960 1010 0 true with inputs := [], midTick := true }) =
      some (⟨true, true, 960, 1010⟩, [carTrue], false) := by decide +kernel
/-- M10 and M11: a 16-bit clock that has wrapped. -/
theorem test_tick_wrapped_clock :
    presAfter (step { atTick false false 0 65000 464 false with params := { params32 with timeWidth := some 16 } }) =
      some (⟨false, false, 0, 464⟩, [carFalse], false) ∧
    presAfter (step { atTick false false 0 65000 463 false with params := { params32 with timeWidth := some 16 } }) =
      some (⟨false, false, 0, 65000⟩, [], false) := by decide +kernel

/-! ### Placing an opcode-table word -/

theorem test_table_words :
    decodeTableWord 8 0x02 = some (.setact [0x00]) ∧ decodeTableWord 8 0x0F = some (.unknown08to0F 7 [0x00]) := by
  decide +kernel

theorem test_table_word_runs_next : isNext (step (State.reset.withFetchWord 8 0x05)) = true := by decide +kernel

/-! ### Witnesses: states and operands that meet the hypotheses of the statements -/

theorem witness_guardAdmitsWhatEncoderProduces :
    ((0x1D : Byte) ≠ 0x00 ∧ (List.replicate 28 (0x41 : Byte)).length = (0x1D : Byte).toNat - 1 ∧
      (0x1D : Byte).toNat + 3 ≤ params32.capacity) ∧
    ((0x1E : Byte) ≠ 0x00 ∧ (List.replicate 29 (0x41 : Byte)).length = (0x1E : Byte).toNat - 1 ∧
      ¬ (0x1E : Byte).toNat + 3 ≤ params32.capacity) ∧
    encodeEvent params32.capacity 0x03 [0x01] = .ok [0xAA, 0x02, 0x03, 0x01, 0xEE] := by decide +kernel

theorem witness_decodeOfEncodeIsIdentity :
    wellFormed 32 (.display (List.replicate 28 0x41)) = true ∧ wellFormed 4 (.unknown80toFF 127 []) = true ∧
    wellFormed 258 (.setact (List.replicate 254 0xAA)) = true ∧
    wellFormed 32 (.invalidFrame 0x03 [0x01] 0x00 0xEE) = true := by decide +kernel

theorem witness_decodedBytesReencode :
    decode 5 [0xAA, 0x02, 0x03, 0x01, 0xEE, 0x00] = .ok (.cardet [0x01], [0x00]) := by decide +kernel

theorem witness_decoderRefusesMalformedByName :
    (0xAB : Byte) ≠ 0xAA ∧ (0x1E : Byte).toNat + 3 > 32 := by decide

theorem witness_idleByteOpensOrIsDiscarded : (ready .sent (.rx 0xAA)).dec.state = .idle := by decide +kernel

/-- The hypotheses hold, and each clause at its boundary: 30 overflows, 29 and 1 are accepted, 0 is neither. -/
theorem witness_lengthByteOverflowsIsZeroOrAccepted :
    (atLength 0x1E).dec.state = .readingLength ∧ (atLength 0x1E).dec.buf = [0xAA] ∧
    (0x1E : Byte).toNat + 3 > params32.capacity ∧ ¬ (0x1D : Byte).toNat + 3 > params32.capacity ∧
    ¬ (0x00 : Byte).toNat + 3 > params32.capacity ∧ (0x01 : Byte) ≠ 0x00 := by decide +kernel

/-- Two bytes to come, and one free place in the buffer. -/
theorem witness_payloadByteIsCountedWhateverItsValue :
    let s := atPayload (0xAA :: 0x1D :: List.replicate 28 0x41) 2 32 0x00 0xAA
    s.dec.state = .readingPayload ∧ s.dec.buf.length < s.params.capacity ∧ 2 ≤ s.dec.remaining := by decide +kernel

theorem witness_stepRunsDecodedInstruction :
    let s := atPayload [0xAA, 0x02, 0x02, 0xC8] 1 5 0x8A 0x8A
    DecoderInv s.params.capacity s.dec ∧ s.dec.state = .readingPayload ∧ s.dec.remaining = 1 ∧
      decode s.params.capacity (s.dec.buf ++ [0x8A]) = .ok (.setact [0xC8], []) := by decide +kernel

theorem witness_completedFrameAlwaysDecodes :
    let d := (atPayload [0xAA, 0x01, 0x06] 1 4 0x07 0x00).dec
    DecoderInv 5 d ∧ d.state = .readingPayload ∧ d.remaining = 1 := by decide +kernel

theorem witness_frameStreamRunsItsInstruction :
    (ready .sent (.rx 0xAA)).dec.state = .idle ∧ wellFormed params32.capacity (.display (List.replicate 28 0xAA)) = true ∧
    wellFormed params32.capacity (.unknown00 []) = true := by decide +kernel

theorem witness_refusedLengthAcceptsFreshMarker :
    (atLength 0x1E).dec.state = .readingLength ∧ (atLength 0x1E).dec.buf = [0xAA] ∧
    (0x1E : Byte).toNat + 3 > (atLength 0x1E).params.capacity ∧ (0x00 : Byte) = 0x00 := by decide +kernel

theorem witness_onlyBytesAndResetMoveTheDecoder :
    let s := atTick true false 40 0 90 true
    (∃ t, step s = .next t) ∧ (∀ b rest, s.inputs ≠ .rx b :: rest) ∧ (∀ rest, s.inputs ≠ .reset :: rest) := by
  refine ⟨of_isNext (by decide +kernel), ?_, ?_⟩ <;> intros <;> simp [atTick, ready]

/-- Leftovers that differ while the decoder is idle, and while it reads the length. -/
theorem witness_leftoverSessionIsNeverRead :
    let s := ready .sent (.rx 0xAA)
    SameSession s.dec ⟨.idle, [0x01, 0x02], 7, 9, 0x55⟩ ∧
    SameSession (atLength 0x05).dec ⟨.readingLength, [0xAA], 7, 9, 0x55⟩ ∧
    (∃ t, step s = .next t) ∧ (∃ t, step (atLength 0x05) = .next t) := by
  refine ⟨by decide +kernel, by decide +kernel, of_isNext (by decide +kernel), of_isNext (by decide +kernel)⟩

/-- Both policies occur, `IGNORE` after power-on. -/
theorem witness_emptyArgumentIgnoresOrDrawsLegalWrite :
    State.reset.params.emptyArgPolicy = .ignore ∧
    ({ State.reset with params := { params32 with emptyArgPolicy := .draw } }).params.emptyArgPolicy = .draw :=
  ⟨rfl, rfl⟩

/-- A step that completes a frame, and one that does not. -/
theorem witness_oneReplyPerFrameAtMostOneWrite :
    (∃ t, step { atPayload [0xAA, 0x02, 0x02, 0xC8] 1 5 0x8A 0x8A with inputs := .rx 0x8A :: [] } = .next t) ∧
    (∃ t, step { atPayload [0xAA, 0x02, 0x02] 2 5 0x24 0xC8 with inputs := .rx 0xC8 :: [] } = .next t) :=
  ⟨of_isNext (by decide +kernel), of_isNext (by decide +kernel)⟩

theorem witness_rxStepLabelShapes :
    (∃ t, step { atLength 0x1E with inputs := .rx 0x1E :: [] } = .next t) ∧
    (∃ t, step { atLength 0x00 with inputs := .rx 0x00 :: [] } = .next t) ∧
    (∃ t, step { atPayload [0xAA, 0x01, 0x06] 1 4 0x07 0x08 with inputs := .rx 0x08 :: [] } = .next t) :=
  ⟨of_isNext (by decide +kernel), of_isNext (by decide +kernel), of_isNext (by decide +kernel)⟩

theorem witness_replyOutcomeNeverChangesTheAction :
    let s := ready .sent (.rx 0x00)
    (∃ t, exec (.setact [0xC8]) { s with answers := .failed 2 :: [.sent] } = .next t) ∧
    (∃ u, exec (.setact [0xC8]) { s with answers := .sent :: [.sent] } = .next u) :=
  ⟨of_isNext (by decide +kernel), of_isNext (by decide +kernel)⟩

/-- A message of three bytes, and the longest strict prefix of it. -/
theorem witness_sendTakesAnyLegalOutcome :
    okReply ≠ [] ∧ outcomeLegal okReply.length (.failed 2) = true ∧ outcomeLegal okReply.length .sent = true ∧
    outcomeLegal okReply.length (.failed 3) = false := by decide

/-- A byte's step and a tick. -/
theorem witness_agentsKeepTheirOutputs :
    (byteNext (ready .sent (.rx 0xAA)) = true ∧ ∃ t, step (ready .sent (.rx 0xAA)) = .next t) ∧
    (byteNext (atTick true false 40 0 90 true) = false ∧ ∃ t, step (atTick true false 40 0 90 true) = .next t) :=
  ⟨⟨rfl, of_isNext (by decide +kernel)⟩, rfl, of_isNext (by decide +kernel)⟩

theorem witness_stepOnlyAppendsLabels : ∃ t, step (atLength 0x1E) = .next t := of_isNext (by decide +kernel)

theorem witness_parametersNeverChange : ∃ t, step (ready .sent .reset) = .next t := of_isNext (by decide +kernel)

/-- Ticks at the bounds: one that sends nothing, a heartbeat alone, a change alone, and both. -/
theorem witness_tickCapturesDebouncesAndSends :
    let s := atTick true false 960 0 1010 true
    (s.midTick = false ∧ clockOk s (stamp s.params 999) = true ∧ clockOk s (stamp s.params 1000) = true ∧
      clockOk s (stamp s.params 1010) = true ∧ clockOk (atTick true false 940 0 990 true) 990 = true) ∧
    (changeFires params32 999 true s.pres, heartbeatFires params32 999 true s.pres) = (false, false) ∧
    (changeFires params32 1000 true s.pres, heartbeatFires params32 1000 true s.pres) = (false, true) ∧
    (changeFires params32 990 true ⟨true, false, 940, 0⟩, heartbeatFires params32 990 true ⟨true, false, 940, 0⟩) =
      (true, false) ∧
    (changeFires params32 1010 true s.pres, heartbeatFires params32 1010 true s.pres) = (true, true) := by
  decide +kernel

theorem witness_pendingHeartbeatIsSentBeforeTheNextTick :
    let s := { ready .sent (.rx 0xAA) with midTick := true }
    s.midTick = true ∧ ∃ u, step { s with inputs := .rx 0xAA :: [] } = .next u :=
  ⟨rfl, of_isNext (by decide +kernel)⟩

theorem witness_presenceIgnoresSendOutcome :
    (∃ t, step { atTick true false 40 0 90 true with answers := [.failed 3] } = .next t) ∧
    (∃ u, step { atTick true false 40 0 90 true with answers := [.sent] } = .next u) :=
  ⟨of_isNext (by decide +kernel), of_isNext (by decide +kernel)⟩

/-- Unbounded, and the longest time across one wrap of a 16-bit clock. -/
theorem witness_elapsedIsModularDifference :
    (params32.timeWidth = none ∧ 40 ≤ 90) ∧
    (({ params32 with timeWidth := some 16 }).timeWidth = some 16 ∧ 65000 < 2 ^ 16 ∧ 65535 < 2 ^ 16) := by
  decide +kernel

theorem witness_backwardClockRefusedOnlyUnbounded :
    let s := { atTick false false 0 0 0 false with lastNow := 10 }
    s.midTick = false ∧ s.params.timeWidth = none ∧ 9 < s.lastNow ∧
    ({ params32 with timeWidth := some 16 }).timeWidth ≠ none := by decide +kernel

/-- Every stretch of a list is one of finitely many. -/
theorem stretch_mem {α : Type} {l before stretch after : List α} (h : l = before ++ stretch ++ after) :
    stretch ∈ l.tails.flatMap List.inits := by
  rw [List.mem_flatMap]
  refine ⟨stretch ++ after, ?_, ?_⟩
  · rw [List.mem_tails, h, List.append_assoc]; exact List.suffix_append _ _
  · rw [List.mem_inits]; exact List.prefix_append _ _

/-- The first toggles of the example in 95_test_vectors 2.5, and a stretch of 49 time-units. -/
theorem witness_fastTogglingNeverReports :
    let pr : Presence := ⟨false, false, 0, 0⟩
    let ticks := [(10, true), (40, false), (70, true), (119, true), (120, false)]
    pr.lastRaw = pr.debounced ∧ ticks.Pairwise (fun x y => x.1 ≤ y.1) ∧
    ∀ before stretch after, ticks = before ++ stretch ++ after → (∀ x ∈ stretch, x.2 ≠ pr.debounced) →
      ∀ x ∈ stretch, ∀ y ∈ stretch, y.1 < x.1 + 50 := by
  refine ⟨rfl, by decide, ?_⟩
  intro before stretch after h
  have hall : ∀ st ∈ ([(10, true), (40, false), (70, true), (119, true), (120, false)] :
      List (Nat × Bool)).tails.flatMap List.inits,
      (∀ x ∈ st, x.2 ≠ false) → ∀ x ∈ st, ∀ y ∈ st, y.1 < x.1 + 50 := by decide +kernel
  exact hall stretch (stretch_mem h)

/-- A transition that is reported at its fourth tick and not before, unbounded and across a wrap of a 6-bit clock. -/
theorem witness_stableTransitionReportsExactlyOnce :
    let pr : Presence := ⟨false, false, 0, 0⟩
    pr.lastRaw = pr.debounced ∧ true ≠ pr.debounced ∧ (10 :: [30, 59, 60]).Pairwise (· ≤ ·) ∧
    (∀ w, params32.timeWidth = some w → ∀ t ∈ [30, 59, 60], t < 10 + 2 ^ w) ∧
    ∀ w, ({ params32 with timeWidth := some 6 }).timeWidth = some w → ∀ t ∈ [30, 59, 60, 73], t < 10 + 2 ^ w := by
  refine ⟨rfl, by decide, by decide, fun w h => by simp [params32] at h, fun w h => ?_⟩
  cases h
  decide

/-- Texts at the bound of R45: 28 bytes in buffers of 32. -/
theorem witness_lotFullTextsAreThoseADisplayWriteCarries :
    (List.replicate 28 (0x41 : Byte)).length ≤ min (params32.capacity - 4) 254 ∧
    ([] : Bytes).length ≤ min (params32.capacity - 4) 254 := by decide +kernel

theorem witness_heartbeatSpacing :
    let pr : Presence := ⟨false, false, 0, 0⟩
    params32.timeWidth = none ∧ pr.lastPeriodicSendTime ≤ 900 ∧ 900 ≤ 1200 ∧ 1200 ≤ 900 + 300 ∧
    heartbeatFires params32 1200 false (tickPresence params32 900 false pr) = true := by decide +kernel

theorem witness_mainStepIgnoresDecoderState :
    let s := atTick false false 0 0 1000 false
    (∀ b rest, s.inputs ≠ .rx b :: rest) ∧ (∀ rest, s.inputs ≠ .reset :: rest) := by
  constructor <;> intros <;> simp [atTick, ready]

theorem witness_noInputLeavesTheBlockParked : State.reset.midTick = false := rfl

/-- A frame in flight at the last place of the buffers, with a label behind it. -/
theorem witness_stepKeepsInvariant :
    let s := { atPayload [0xAA, 0x02, 0x02, 0xC8] 1 5 0x8A 0x8A with out := [okSent, .act 180], lastNow := 40 }
    Inv s ∧ ∃ t, step s = .next t :=
  ⟨by decide +kernel, of_isNext (by decide +kernel)⟩

theorem witness_noModelFaultUnderInvariant :
    DecoderInv params32.capacity (atPayload (0xAA :: 0x1D :: 0x01 :: List.replicate 28 0x41) 1 32 0x54 0x54).dec := by
  decide +kernel

/-- A step that goes on, and a tick that breaks the environment's duty. -/
theorem witness_everyStepGoesOnUnlessTheClockGoesBack :
    Inv (atLength 0x02) ∧
    Inv { atTick false false 0 0 9 false with lastNow := 10 } ∧
    (atTick false false 0 0 9 false).inputs = .tick 9 false :: [] ∧ params32.timeWidth = none ∧ 9 < 10 := by
  refine ⟨by decide +kernel, by decide +kernel, rfl, rfl, by decide⟩

end Sys2Proof.Tests
end

section
/-! The script lines of R89 and R90: a framed line expands to the bytes `encode` gives, exactly where they fit. -/

namespace Sys2Proof.Machine

/-! ### What fits a frame (R78) -/

theorem payloadFits_iff_le_payloadLimit {cap : Nat} (hcap : 4 ≤ cap) (p : Bytes) :
    payloadFits cap p = true ↔ p.length ≤ payloadLimit cap := by
  simp only [payloadFits, payloadLimit, Bool.and_eq_true, decide_eq_true_eq]
  omega

/-- The counterpart of `encodeEvent_of_fits`. A buffer below the framing of four bytes is excluded: there the
truncated `cap - 4` lets the empty payload through. -/
theorem encodeEvent_of_not_fits {cap : Nat} (hcap : 4 ≤ cap) {p : Bytes} (h : ¬ payloadFits cap p = true) (id : Byte) :
    encodeEvent cap id p = .tooLong p.length := by
  rw [payloadFits_iff_le_payloadLimit hcap, payloadLimit] at h
  exact if_pos (by omega)

theorem four_le_capacity (p : Params) : 4 ≤ p.capacity :=
  Nat.le_add_left_of_le (by decide)

/-- One operand byte fits every legal capacity. -/
theorem payloadFits_singleton (p : Params) (b : Byte) : payloadFits p.capacity [b] = true := by
  simp [payloadFits, Params.capacity]

/-! ### The expansion of a framed form (R90) -/

theorem expandFrame_eq {cap : Nat} (hcap : 4 ≤ cap) (id : Byte) (p : Bytes) :
    expandFrame cap id p =
      if payloadFits cap p then some ((frameBytes id p (crc8 (coveredRegion id p))).map .rx) else none := by
  split
  case isTrue h => rw [expandFrame, encodeEvent_of_fits h]
  case isFalse h => rw [expandFrame, encodeEvent_of_not_fits hcap h]

theorem eventInstr_displayId (p : Bytes) : eventInstr displayId p = .display p := rfl
theorem eventInstr_setactId (p : Bytes) : eventInstr setactId p = .setact p := rfl
theorem eventInstr_cardetId (p : Bytes) : eventInstr cardetId p = .cardet p := rfl
theorem eventInstr_plateId (p : Bytes) : eventInstr plateId p = .plate p := rfl
theorem eventInstr_lotfullId (p : Bytes) : eventInstr lotfullId p = .lotfull p := rfl

/-- The event id of any framed form names the row whose instruction it encodes. -/
theorem encode_eventInstr (id : Byte) (p : Bytes) :
    encode (eventInstr id p) = frameBytes id p (crc8 (coveredRegion id p)) := by
  rw [encode, eventIdOf_eventInstr, payloadOf_eventInstr, checksumOf_eventInstr]

theorem expandFrame_eq_encode {cap : Nat} (hcap : 4 ≤ cap) (id : Byte) (p : Bytes) :
    expandFrame cap id p =
      if wellFormed cap (eventInstr id p) then some ((encode (eventInstr id p)).map .rx) else none := by
  rw [expandFrame_eq hcap, wellFormed_eventInstr, encode_eventInstr]

/-- With one operand byte there is always an expansion. -/
theorem expandFrame_singleton (p : Params) (id b : Byte) :
    expandFrame p.capacity id [b] = some ((encode (eventInstr id [b])).map .rx) := by
  rw [expandFrame_eq_encode (four_le_capacity p), wellFormed_eventInstr, if_pos (payloadFits_singleton p b)]

/-- `FRAME` of R90 with the layout of R70 and the limit of R78 written out. -/
theorem expandLine_frame (p : Params) (id : Byte) (text : Bytes) :
    expandLine p.capacity (.frame id text) =
      if text.length ≤ min (p.capacity - 4) 254 then
        some (([0xAA, BitVec.ofNat 8 (text.length + 1), id] ++ text ++
          [crc8 ([BitVec.ofNat 8 (text.length + 1), id] ++ text)]).map .rx)
      else none := by
  rw [expandLine, expandFrame_eq (four_le_capacity p)]
  simp only [payloadFits_iff_le_payloadLimit (four_le_capacity p)]
  rfl

/-- Settles O13: each named form is the framed form of its row's event id, and only `FRAME` and `DISPLAY` have a
payload that can exceed the limit. -/
theorem notationExpandsToEncodedInstruction : Obligations.NotationExpandsToEncodedInstruction := by
  intro p v n id text
  refine ⟨expandLine_frame p id text, rfl, ?setact, ?cardet, ?plate, ?lotfull, ?display⟩
  case setact => rw [expandLine, expandFrame_singleton, eventInstr_setactId]
  case cardet => rw [expandLine, expandFrame_singleton, eventInstr_cardetId, boolByte]
  case plate => rw [expandLine, expandFrame_singleton, eventInstr_plateId, boolByte]
  case lotfull => rw [expandLine, expandFrame_singleton, eventInstr_lotfullId, boolByte]
  case display => rw [expandLine, expandFrame_eq_encode (four_le_capacity p), eventInstr_displayId]

end Sys2Proof.Machine
end

section
/-! The checksum unit of 40_checksum: what one round does (R100), and why a single-bit error is always seen (R105): each
round can be undone, so registers that differ once differ from then on. -/

namespace Sys2Proof.Machine

/-! ### One round and one byte (R100) -/

theorem crcShift_eq (r : Byte) : crcShift r = if r.getLsbD 7 then (r <<< 1) ^^^ 0x07 else r <<< 1 := rfl

theorem crcRounds_succ (n : Nat) (r : Byte) : crcRounds (n + 1) r = crcRounds n (crcShift r) := rfl

theorem crcRounds_zero (r : Byte) : crcRounds 0 r = r := rfl

/-- Settles O1: the model's eight rounds one by one, and its checksum as the fold it is defined to be. -/
theorem crcFoldsEightMsbFirstRounds : Obligations.CrcFoldsEightMsbFirstRounds := by
  refine ⟨fun c b => ?rounds, fun s => ?fold⟩
  case rounds => simp only [crc8Step, crcRounds_succ, crcRounds_zero, crcShift_eq]
  case fold => rw [crc8, crc8From]

/-! ### No round loses information -/

/-- The shift clears bit 0 and the polynomial has it set, so bit 0 records the bit that was shifted out. -/
theorem crcShift_getLsbD_zero (r : Byte) : (crcShift r).getLsbD 0 = r.getLsbD 7 := by
  rw [crcShift_eq]
  split
  case isTrue h => simpa using h
  case isFalse h => simpa using h

theorem eq_of_shiftLeft_one_eq {r t : Byte} (hshift : r <<< 1 = t <<< 1) (htop : r.getLsbD 7 = t.getLsbD 7) : r = t := by
  refine BitVec.eq_of_getLsbD_eq fun i hi => ?_
  obtain rfl | hlt : i = 7 ∨ i + 1 < 8 := by omega
  · exact htop
  · simpa [hi, hlt] using congrArg (BitVec.getLsbD · (i + 1)) hshift

theorem crcShift_injective : Function.Injective crcShift := by
  intro r t h
  have htop : r.getLsbD 7 = t.getLsbD 7 := by
    rw [← crcShift_getLsbD_zero r, h, crcShift_getLsbD_zero]
  refine eq_of_shiftLeft_one_eq ?_ htop
  rw [crcShift_eq, crcShift_eq, htop] at h
  split at h
  · exact (BitVec.xor_left_inj _).1 h
  · exact h

theorem crcRounds_injective (n : Nat) : Function.Injective (crcRounds n) := by
  induction n with
  | zero => exact fun _ _ h => h
  | succ n ih => exact ih.comp crcShift_injective

theorem crc8Step_left_injective (b : Byte) : Function.Injective (crc8Step · b) :=
  fun _ _ h => (BitVec.xor_left_inj b).1 (crcRounds_injective 8 h)

theorem crc8Step_right_injective (c : Byte) : Function.Injective (crc8Step c) :=
  fun _ _ h => (BitVec.xor_right_inj c).1 (crcRounds_injective 8 h)

/-- Registers that differ before a byte sequence differ after it. -/
theorem crc8From_injective (s : Bytes) : Function.Injective (crc8From · s) := by
  induction s with
  | nil => exact fun _ _ h => h
  | cons b s ih => exact ih.comp (crc8Step_left_injective b)

/-! ### Errors in one byte (R105) -/

/-- Any change of a single byte is seen, not only that of one bit. -/
theorem crc8_replace_byte_inj {before after : Bytes} {b b' : Byte} :
    crc8 (before ++ b :: after) = crc8 (before ++ b' :: after) ↔ b = b' := by
  refine ⟨fun h => ?_, fun h => h ▸ rfl⟩
  rw [crc8, crc8, crc8From_append, crc8From_append] at h
  exact crc8Step_right_injective (crc8From 0 before) (crc8From_injective after h)

theorem flipBit_ne (b : Byte) (k : Fin 8) : b ^^^ ((0x01 : Byte) <<< k.val) ≠ b := by
  intro h
  have hbit : (b ^^^ ((0x01 : Byte) <<< k.val)).getLsbD k = b.getLsbD k := by rw [h]
  simp at hbit

/-- Settles O4: a flipped bit changes its byte, and neither the fold nor the comparison of checksums hides a changed
byte. -/
theorem singleBitErrorChangesChecksum : Obligations.SingleBitErrorChangesChecksum := by
  refine ⟨fun before after b k hcrc => ?region, fun ck k => ?checksumByte⟩
  case region => exact flipBit_ne b k (crc8_replace_byte_inj.1 hcrc)
  case checksumByte => exact Bool.eq_false_iff.2 fun hvalid => flipBit_ne ck k (frameValid_iff.1 hvalid)

end Sys2Proof.Machine
end

section
/-! The frame encoder of 41_encoder: the guard of R111 as `encodeEvent` tests it, for any buffer size, and the layout of
R112. -/

namespace Sys2Proof.Machine

/-! ### The layout of a frame (R70, R75) -/

theorem coveredRegion_eq_append (id : Byte) (p : Bytes) :
    coveredRegion id p = [BitVec.ofNat 8 (p.length + 1), id] ++ p := rfl

theorem frameBytes_eq_append (id : Byte) (p : Bytes) (checksum : Byte) :
    frameBytes id p checksum = [0xAA, BitVec.ofNat 8 (p.length + 1), id] ++ p ++ [checksum] := rfl

/-! ### The two results of `ENCODE` (R110, R111) -/

/-- Unlike `encodeEvent_of_not_fits`, this holds for buffers below the framing of four bytes too. -/
theorem encodeEvent_of_too_long {cap : Nat} {p : Bytes} (h : p.length > cap - 4 ∨ p.length > 254) (id : Byte) :
    encodeEvent cap id p = .tooLong p.length :=
  if_pos h

/-- Unlike `encodeEvent_of_fits`, this holds for buffers below the framing of four bytes too. -/
theorem encodeEvent_of_not_too_long {cap : Nat} {p : Bytes} (h : ¬ (p.length > cap - 4 ∨ p.length > 254)) (id : Byte) :
    encodeEvent cap id p = .ok (frameBytes id p (crc8 (coveredRegion id p))) :=
  if_neg h

/-- Settles O5: past the guard of R111 the result is the frame of R112, its checksum taken over the covered region. -/
theorem encoderLaysOutFrameOrRefuses : Obligations.EncoderLaysOutFrameOrRefuses := by
  intro cap id p
  split
  case isTrue htooLong => exact encodeEvent_of_too_long htooLong id
  case isFalse hfits => rw [encodeEvent_of_not_too_long hfits, frameBytes_eq_append, coveredRegion_eq_append]

end Sys2Proof.Machine
end

section
/-! The decoder's step of 42_decoder: what a byte does in `Idle` and in `ReadingLength` (R121 to R125), that a refused
length leaves the decoder open to a fresh marker (R134), and that the MAIN agent never touches the session (R131). -/

namespace Sys2Proof.Machine

/-! ### A byte in `Idle` and in `ReadingLength` (R120 to R125) -/

/-- R120: a byte at the head of the script is one RX step. -/
theorem step_rx (s : State) (b : Byte) (rest : List InputEvent) :
    step { s with inputs := .rx b :: rest } = rxByte b { s with inputs := rest } := rfl

theorem rxByte_of_idle {s : State} (hidle : s.dec.state = .idle) (b : Byte) :
    rxByte b s = .next (if b = startMarker then setDec { s.dec with state := .readingLength, buf := [b] } s else s) := by
  rw [rxByte, hidle]
  exact (apply_ite Host.Outcome.next ..).symm

/-- Whatever the buffer holds, so long as the length byte has a place in it. -/
theorem rxByte_of_readingLength {s : State} (hreading : s.dec.state = .readingLength)
    (hroom : s.dec.buf.length < s.params.capacity) (len : Byte) :
    rxByte len s = .next
      (if len.toNat + 3 > s.params.capacity then setDec (dropFrame s.dec) (raise (.overflow len) s)
       else if len = 0x00 then setDec (dropFrame s.dec) (raise (.badLength len) s)
       else setDec (acceptLength { s.dec with buf := s.dec.buf ++ [len] } len) s) := by
  rw [rxByte, hreading]
  simp only [rxLength, pushByte_of_lt hroom]
  split_ifs <;> rfl

/-- Settles O14: the opening marker is the only byte the new buffer holds. -/
theorem idleByteOpensOrIsDiscarded : Obligations.IdleByteOpensOrIsDiscarded := by
  intro s b rest hidle
  rw [step_rx, rxByte_of_idle (s := { s with inputs := rest }) hidle, startMarker]
  split_ifs with hmarker
  · rw [hmarker]; rfl
  · rfl

/-- Settles O15: the marker alone leaves room for the length byte at every capacity. -/
theorem lengthByteOverflowsIsZeroOrAccepted : Obligations.LengthByteOverflowsIsZeroOrAccepted := by
  intro s len rest hreading hbuf
  have hroom : s.dec.buf.length < s.params.capacity := by
    have := four_le_capacity s.params
    rw [hbuf, List.length_singleton]
    omega
  rw [step_rx, rxByte_of_readingLength (s := { s with inputs := rest }) hreading hroom]
  split_ifs with hover hzero
  · rfl
  · rw [hzero]; rfl
  · simp only [hbuf]; rfl

/-! ### A refused length byte (R134) -/

/-- The two refusals differ in their error label only. -/
theorem step_of_refused_length {s : State} {len : Byte} (rest : List InputEvent)
    (hreading : s.dec.state = .readingLength) (hbuf : s.dec.buf = [0xAA])
    (hrefused : len.toNat + 3 > s.params.capacity ∨ len = 0x00) :
    ∃ e, (e = .overflow len ∨ e = .badLength len) ∧
      step { s with inputs := .rx len :: rest } =
        .next { s with inputs := rest, dec := dropFrame s.dec, out := s.out ++ [.err e] } := by
  rw [lengthByteOverflowsIsZeroOrAccepted s len rest hreading hbuf]
  by_cases hover : len.toNat + 3 > s.params.capacity
  · exact ⟨.overflow len, .inl rfl, by rw [if_pos hover]; rfl⟩
  · have hzero : len = 0x00 := hrefused.resolve_left hover
    exact ⟨.badLength len, .inr rfl, by rw [if_neg hover, if_pos hzero, hzero]; rfl⟩

/-- Settles O20: the byte after the refused length is an `Idle` byte. -/
theorem refusedLengthAcceptsFreshMarker : Obligations.RefusedLengthAcceptsFreshMarker := by
  intro s len b rest hreading hbuf hrefused
  obtain ⟨e, he, hstep⟩ := step_of_refused_length (.rx b :: rest) hreading hbuf hrefused
  have hnext := idleByteOpensOrIsDiscarded { s with dec := dropFrame s.dec, out := s.out ++ [.err e] } b rest rfl
  refine ⟨_, _, hstep, rfl, ?label, hnext, ?out, ?session⟩
  case label => exact he.imp (fun h => by rw [h]) (fun h => by rw [h])
  case out => split_ifs <;> rfl
  case session =>
    split_ifs
    · exact ⟨rfl, rfl⟩
    · rfl

/-! ### The MAIN agent keeps out of the session (R131) -/

@[simp] theorem sendCarDetected_dec (v : Bool) (s : State) : (sendCarDetected v s).dec = s.dec := by
  rw [sendCarDetected_eq, send_dec]

@[simp] theorem finishTick_dec (s : State) : (finishTick s).dec = s.dec := by
  rw [finishTick, sendCarDetected_dec]

@[simp] theorem tickBody_dec (t : Nat) (raw : Bool) (s : State) : (tickBody t raw s).dec = s.dec := by
  obtain ⟨-, -, hquiet⟩ | ⟨-, -, hboth⟩ | ⟨-, hone⟩ := tickBody_cases t raw s
  · rw [hquiet, tickWrites_dec]
  · simp only [hboth, sendCarDetected_dec, tickWrites_dec]
  · rw [hone, sendCarDetected_dec, tickWrites_dec]

/-- Settles O21: with the byte and reset excluded, what is left are the MAIN agent's moves and the empty script. -/
theorem onlyBytesAndResetMoveTheDecoder : Obligations.OnlyBytesAndResetMoveTheDecoder := by
  intro s t hstep hnoByte hnoReset
  obtain ⟨b, rest, hbyte, -⟩ | ⟨-, -, rfl⟩ | ⟨-, -, rfl⟩ | ⟨-, -, -, -, -, rfl⟩ | ⟨-, -, -, -, -, -, rfl⟩ |
    ⟨-, -, -, rfl⟩ | ⟨-, -, -, rfl⟩ | ⟨rest, hreset, -⟩ := step_cases hstep
  · exact absurd hbyte (hnoByte b rest)
  · exact finishTick_dec s
  · rfl
  · exact finishTick_dec s
  · exact tickBody_dec ..
  · exact finishTick_dec _
  · rfl
  · exact absurd hreset (hnoReset rest)

end Sys2Proof.Machine
end

section
/-! The event dispatcher of 43_dispatcher: every dispatch is one reply and then an action (R143), the action never looks
at what the reply produced (R151), and each row's labels (R142, R144 to R149, R152). -/

namespace Sys2Proof.Machine

/-! ### The OK reply (R143) -/

@[simp] theorem replyOk_params (s : State) : (replyOk s).params = s.params := send_params ..

/-- The OK reply and then labels of the action, with the frame and the one draw of R57. -/
theorem acksThen_emit_replyOk (ls : List Label) (s : State) : AcksThen ls s (emit ls (replyOk s)) := by
  refine ⟨?block, ?draw, ?out⟩
  case block => simp [SameBlock, replyOk]
  case draw => simp [OneDraw, replyOk]
  case out => simp [replyOk, okReply]

@[simp] theorem emit_nil (s : State) : emit [] s = s := by
  simp [emit]

theorem acksThen_replyOk (s : State) : AcksThen [] s (replyOk s) := by
  simpa only [emit_nil] using acksThen_emit_replyOk [] s

theorem exec_acksThen_of_eq_emit {i : Instr} {s : State} {ls : List Label}
    (h : exec i s = .next (emit ls (replyOk s))) : ∃ t, exec i s = .next t ∧ AcksThen ls s t :=
  ⟨_, h, acksThen_emit_replyOk ls s⟩

theorem exec_acksThen_of_eq_replyOk {i : Instr} {s : State} (h : exec i s = .next (replyOk s)) :
    ∃ t, exec i s = .next t ∧ AcksThen [] s t :=
  ⟨_, h, acksThen_replyOk s⟩

/-! ### The argument byte (R82, R83, R84) -/

theorem clampAngle_eq_ofNat (b : Byte) : clampAngle b = BitVec.ofNat 8 (min b.toNat 180) := by
  rw [← clampAngle_toNat, BitVec.ofNat_toNat, BitVec.setWidth_eq]

theorem plateAngle_eq_ofNat (p : Params) (flag : Bool) :
    plateAngle p flag = BitVec.ofNat 8 (if flag then p.openAngle else p.closedAngle).val := by
  cases flag <;> rfl

theorem exec_setact_nil (s : State) : exec (.setact []) s = .next (emptyArgAct (replyOk s)) := rfl
theorem exec_plate_nil (s : State) : exec (.plate []) s = .next (emptyArgAct (replyOk s)) := rfl
theorem exec_lotfull_nil (s : State) : exec (.lotfull []) s = .next (emptyArgDisp (replyOk s)) := rfl

theorem exec_setact_cons (b : Byte) (surplus : Bytes) (s : State) :
    exec (.setact (b :: surplus)) s = .next (emit [.act (clampAngle b)] (replyOk s)) := rfl

theorem exec_plate_cons (b : Byte) (surplus : Bytes) (s : State) :
    exec (.plate (b :: surplus)) s =
      .next (emit [.act (plateAngle s.params (boolOf s.params.boolDecode b))] (replyOk s)) := rfl

theorem exec_lotfull_cons (b : Byte) (surplus : Bytes) (s : State) :
    exec (.lotfull (b :: surplus)) s =
      .next (emit [.disp (lotFullText s.params (boolOf s.params.boolDecode b))] (replyOk s)) := rfl

/-! ### The action does not read the reply (R151) -/

/-- `f` appends labels and may draw, and which ones does not depend on the labels produced before. -/
def ReadsNoLabel (f : State → State) : Prop :=
  ∀ s, ∃ draws w, ∀ ls, f (emit ls s) = emit w (emit ls { s with draws := draws })

theorem readsNoLabel_id : ReadsNoLabel id :=
  fun s => ⟨s.draws, [], fun ls => emit_nil (emit ls s) |>.symm⟩

theorem readsNoLabel_emit (labels : Params → List Label) : ReadsNoLabel fun s => emit (labels s.params) s :=
  fun s => ⟨s.draws, labels s.params, fun _ => rfl⟩

theorem readsNoLabel_emptyArgAct : ReadsNoLabel emptyArgAct := by
  intro s
  unfold emptyArgAct
  simp only [emit_params, emit_draws]
  cases s.params.emptyArgPolicy with
  | ignore => exact readsNoLabel_id s
  | draw =>
    cases Config.drawnAngle s.draws with
    | none => exact ⟨s.draws + 1, [], fun _ => (emit_nil _).symm⟩
    | some a => exact ⟨s.draws + 1, [.act (angleByte a)], fun _ => rfl⟩

theorem readsNoLabel_emptyArgDisp : ReadsNoLabel emptyArgDisp := by
  intro s
  unfold emptyArgDisp
  simp only [emit_params, emit_draws]
  cases s.params.emptyArgPolicy with
  | ignore => exact readsNoLabel_id s
  | draw =>
    cases Config.drawnText s.draws with
    | none => exact ⟨s.draws + 1, [], fun _ => (emit_nil _).symm⟩
    | some x => exact ⟨s.draws + 1, [.disp (displayable s.params x)], fun _ => rfl⟩

/-- The shape of R142 and R143: what is recorded before the reply, one reply, and an action. -/
def RepliesThenActs (i : Instr) : Prop :=
  ∃ before reply action, ReadsNoLabel action ∧
    ∀ s, exec i s = .next (action (send .rx reply (emit before s)))

theorem RepliesThenActs.of_replyOk {i : Instr} {action : State → State} (hact : ReadsNoLabel action)
    (h : ∀ s, exec i s = .next (action (replyOk s))) : RepliesThenActs i :=
  ⟨[], okReply, action, hact, fun s => by rw [emit_nil]; exact h s⟩

theorem exec_repliesThenActs (i : Instr) : RepliesThenActs i := by
  cases i with
  | display p => exact .of_replyOk (readsNoLabel_emit fun _ => [.disp p]) fun _ => rfl
  | setact p =>
    cases p with
    | nil => exact .of_replyOk readsNoLabel_emptyArgAct exec_setact_nil
    | cons b q => exact .of_replyOk (readsNoLabel_emit fun _ => [.act (clampAngle b)]) (exec_setact_cons b q)
  | plate p =>
    cases p with
    | nil => exact .of_replyOk readsNoLabel_emptyArgAct exec_plate_nil
    | cons b q =>
      exact .of_replyOk (readsNoLabel_emit fun p => [.act (plateAngle p (boolOf p.boolDecode b))])
        fun s => by rw [exec_plate_cons, replyOk_params]
  | lotfull p =>
    cases p with
    | nil => exact .of_replyOk readsNoLabel_emptyArgDisp exec_lotfull_nil
    | cons b q =>
      exact .of_replyOk (readsNoLabel_emit fun p => [.disp (lotFullText p (boolOf p.boolDecode b))])
        fun s => by rw [exec_lotfull_cons, replyOk_params]
  | invalidFrame eventId p rx computed =>
    exact ⟨[.err (.checksum rx computed)], errReply, id, readsNoLabel_id, fun _ => rfl⟩
  | cardet p => exact .of_replyOk readsNoLabel_id fun _ => rfl
  | unknown00 p => exact .of_replyOk readsNoLabel_id fun _ => rfl
  | unknown06to07 low p => exact .of_replyOk readsNoLabel_id fun _ => rfl
  | unknown08to0F low p => exact .of_replyOk readsNoLabel_id fun _ => rfl
  | unknown10to1F low p => exact .of_replyOk readsNoLabel_id fun _ => rfl
  | unknown20to3F low p => exact .of_replyOk readsNoLabel_id fun _ => rfl
  | unknown40to7F low p => exact .of_replyOk readsNoLabel_id fun _ => rfl
  | unknown80toFF low p => exact .of_replyOk readsNoLabel_id fun _ => rfl

/-- With an outcome settled, that outcome goes into the reply's labels and nowhere else. -/
theorem send_of_answer (a : Agent) (m : Bytes) (s : State) (o : SendOutcome) (rest : List SendOutcome) :
    send a m { s with answers := o :: rest } =
      emit (sendLabels a m (limitOutcome m.length o)) { s with answers := rest } := rfl

/-- A `Send` writes to no collaborator, whatever its outcome. -/
theorem filter_isWrite_sendLabels (a : Agent) (m : Bytes) (o : SendOutcome) :
    (sendLabels a m o).filter isWrite = [] := by
  cases o <;> rfl

/-- All that a dispatch produces beside its reply is fixed before the outcome of the reply is known. -/
theorem exec_of_answer (i : Instr) (s : State) (rest : List SendOutcome) :
    ∃ before reply action draws, ∀ o, exec i { s with answers := o :: rest } =
      .next (emit action (emit (sendLabels .rx reply (limitOutcome reply.length o))
        { emit before s with answers := rest, draws := draws })) := by
  obtain ⟨before, reply, action, hact, hexec⟩ := exec_repliesThenActs i
  obtain ⟨draws, w, hw⟩ := hact { emit before s with answers := rest }
  refine ⟨before, reply, w, draws, fun o => ?_⟩
  calc exec i { s with answers := o :: rest }
    _ = .next (action (send .rx reply { emit before s with answers := o :: rest })) := hexec _
    _ = .next (action (emit (sendLabels .rx reply (limitOutcome reply.length o))
          { emit before s with answers := rest })) := by rw [send_of_answer]
    _ = _ := congrArg Host.Outcome.next (hw _)

/-- Settles O32: of the labels of a dispatch only those of the reply depend on its outcome, and none of them is a
collaborator write. -/
theorem replyOutcomeNeverChangesTheAction : Obligations.ReplyOutcomeNeverChangesTheAction := by
  intro i s t u o o' rest ht hu
  obtain ⟨before, reply, action, draws, hexec⟩ := exec_of_answer i s rest
  rw [hexec] at ht hu
  cases ht
  cases hu
  refine ⟨?writes, rfl, rfl⟩
  case writes => simp only [emit_out, List.filter_append, filter_isWrite_sendLabels]

/-! ### The rows with an action (R144 to R148) -/

/-- Settles O23: the text operand of `DISPLAY` is the payload itself. -/
theorem displayAcksThenShowsPayload : Obligations.DisplayAcksThenShowsPayload :=
  fun _ _ => exec_acksThen_of_eq_emit rfl

/-- Settles O24: the 16-bit clamp of the model is the minimum with 180. -/
theorem setactAcksThenWritesClampedAngle : Obligations.SetactAcksThenWritesClampedAngle := by
  refine ⟨fun b surplus s => ?argument, fun s => ?empty⟩
  case argument =>
    rw [← clampAngle_eq_ofNat]
    exact exec_acksThen_of_eq_emit (exec_setact_cons b surplus s)
  case empty => exact ⟨replyOk s, acksThen_replyOk s, exec_setact_nil s⟩

/-- Settles O25: no payload reaches the meaning of `CARDET`. -/
theorem cardetOnlyAcks : Obligations.CardetOnlyAcks :=
  fun _ _ => exec_acksThen_of_eq_replyOk rfl

/-- Settles O26: the gate angle is a parameter chosen by the decoded flag, read as a byte. -/
theorem plateAcksThenWritesGateAngle : Obligations.PlateAcksThenWritesGateAngle := by
  refine ⟨fun b surplus s => ?argument, fun s => ?empty⟩
  case argument =>
    have hexec := exec_plate_cons b surplus s
    rw [plateAngle_eq_ofNat] at hexec
    exact exec_acksThen_of_eq_emit hexec
  case empty => exact ⟨replyOk s, acksThen_replyOk s, exec_plate_nil s⟩

/-- Settles O27: the text is a parameter chosen by the decoded flag. -/
theorem lotfullAcksThenShowsText : Obligations.LotfullAcksThenShowsText := by
  refine ⟨fun b surplus s => ?argument, fun s => ?empty⟩
  case argument => exact exec_acksThen_of_eq_emit (exec_lotfull_cons b surplus s)
  case empty => exact ⟨replyOk s, acksThen_replyOk s, exec_lotfull_nil s⟩

/-! ### The rows without an action (R142, R149) -/

/-- Settles O28: all seven rows have the OK reply as their whole meaning. -/
theorem unknownIdsOnlyAck : Obligations.UnknownIdsOnlyAck := by
  intro payload s
  refine ⟨?id00, fun low => ?id06, fun low => ?id08, fun low => ?id10, fun low => ?id20, fun low => ?id40,
    fun low => ?id80⟩
  all_goals exact exec_acksThen_of_eq_replyOk rfl

/-- Settles O29: the error label is recorded before the reply and draws nothing. -/
theorem invalidFrameGetsErrReply : Obligations.InvalidFrameGetsErrReply := by
  intro id payload rx computed s
  have hdraw := nextOutcome_congr (s := s) (t := raise (.checksum rx computed) s) rfl rfl 4
  refine ⟨send .rx errReply (raise (.checksum rx computed) s), rfl, ?block, ?draw, ?out⟩
  case block => simp [SameBlock]
  case draw => simp [OneDraw]
  case out => simp [errReply, hdraw]

/-! ### An event without its argument (R152) -/

theorem emptyArgAct_of_ignore {s : State} (h : s.params.emptyArgPolicy = .ignore) : emptyArgAct s = s := by
  simp only [emptyArgAct, h]

theorem emptyArgDisp_of_ignore {s : State} (h : s.params.emptyArgPolicy = .ignore) : emptyArgDisp s = s := by
  simp only [emptyArgDisp, h]

/-- Under `DRAW`: one more free value, and no write or one angle in range. -/
theorem emptyArgAct_of_draw {s : State} (h : s.params.emptyArgPolicy = .draw) :
    ∃ w, emptyArgAct s = emit w { s with draws := s.draws + 1 } ∧
      (w = [] ∨ ∃ a : Byte, a.toNat ≤ 180 ∧ w = [.act a]) := by
  obtain ⟨hignore, -⟩ | ⟨-, hnone | ⟨a, hsome⟩⟩ := emptyArgAct_cases s
  · rw [h] at hignore; cases hignore
  · exact ⟨[], by rw [hnone, emit_nil], .inl rfl⟩
  · exact ⟨_, hsome, .inr ⟨angleByte a, angleByte_le a, rfl⟩⟩

/-- Under `DRAW`: one more free value, and no write or one text within the limit. -/
theorem emptyArgDisp_of_draw {s : State} (h : s.params.emptyArgPolicy = .draw) :
    ∃ w, emptyArgDisp s = emit w { s with draws := s.draws + 1 } ∧
      (w = [] ∨ ∃ x : Bytes, x.length ≤ payloadLimit s.params.capacity ∧ w = [.disp x]) := by
  obtain ⟨hignore, -⟩ | ⟨-, hnone | ⟨x, hx, hsome⟩⟩ := emptyArgDisp_cases s
  · rw [h] at hignore; cases hignore
  · exact ⟨[], by rw [hnone, emit_nil], .inl rfl⟩
  · exact ⟨_, hsome, .inr ⟨x, hx, rfl⟩⟩

/-- The OK reply, one free value of the policy, and then labels of the action. -/
theorem replyOk_then_draw (w : List Label) (s : State) :
    let t := emit w { replyOk s with draws := (replyOk s).draws + 1 }
    SameBlock s t ∧ t.answers = s.answers.tail ∧ t.draws = s.draws + s.answers.isEmpty.toNat + 1 ∧
      t.out = s.out ++ sendLabels .rx [0x4F, 0x4B, 0x0A] (nextOutcome s 3) ++ w := by
  obtain ⟨hblock, ⟨hanswers, hdraws⟩, hout⟩ := acksThen_emit_replyOk w s
  exact ⟨hblock, hanswers, congrArg (· + 1) hdraws, hout⟩

/-- Settles O30: after the reply the policy decides, for the actuator and for the display alike. -/
theorem emptyArgumentIgnoresOrDrawsLegalWrite : Obligations.EmptyArgumentIgnoresOrDrawsLegalWrite := by
  intro s
  simp only [List.forall_mem_cons, List.not_mem_nil, false_implies, implies_true, and_true]
  refine ⟨fun hpolicy => ?ignore, fun hpolicy => ?draw⟩ <;> rw [← replyOk_params s] at hpolicy
  case ignore =>
    have hact := emptyArgAct_of_ignore hpolicy
    have hdisp := emptyArgDisp_of_ignore hpolicy
    exact ⟨exec_acksThen_of_eq_replyOk (by rw [exec_setact_nil, hact]),
      exec_acksThen_of_eq_replyOk (by rw [exec_plate_nil, hact]),
      exec_acksThen_of_eq_replyOk (by rw [exec_lotfull_nil, hdisp])⟩
  case draw =>
    obtain ⟨w, hact, hw⟩ := emptyArgAct_of_draw hpolicy
    obtain ⟨v, hdisp, hv⟩ := emptyArgDisp_of_draw hpolicy
    obtain ⟨hblock, hanswers, hdraws, hout⟩ := replyOk_then_draw w s
    obtain ⟨hblockDisp, hanswersDisp, hdrawsDisp, houtDisp⟩ := replyOk_then_draw v s
    rw [replyOk_params] at hv
    refine ⟨⟨_, w, ?setact, hblock, hanswers, hdraws, hout, ?angle⟩,
      ⟨_, w, ?plate, hblock, hanswers, hdraws, hout, ?gate⟩,
      ⟨_, v, ?lotfull, hblockDisp, hanswersDisp, hdrawsDisp, houtDisp, ?text⟩⟩
    case setact => rw [exec_setact_nil, hact]
    case plate => rw [exec_plate_nil, hact]
    case lotfull => rw [exec_lotfull_nil, hdisp]
    case angle => rwa [if_neg nofun]
    case gate => rwa [if_neg nofun]
    case text => rwa [if_pos trivial]

end Sys2Proof.Machine
end

section
/-! The clock arithmetic of R161: what a timestamp keeps of the clock, and the time between two of them. -/

namespace Sys2Proof.Machine

theorem stamp_of_width {p : Params} {w : Nat} (hw : p.timeWidth = some w) (now : Nat) :
    stamp p now = now % 2 ^ w := by
  simp only [stamp, hw]

theorem elapsed_of_unbounded {p : Params} (hw : p.timeWidth = none) (t t0 : Nat) : elapsed p t t0 = t - t0 := by
  simp only [elapsed, hw]

/-- R161 over the integers: a remainder is never negative, so reading it as a natural number loses nothing. -/
theorem elapsed_of_width {p : Params} {w : Nat} (hw : p.timeWidth = some w) (t t0 : Nat) :
    (elapsed p t t0 : Int) = ((t : Int) - t0) % (2 : Int) ^ w := by
  have hnonneg : 0 ≤ ((t : Int) - t0) % ((2 ^ w : Nat) : Int) := Int.emod_nonneg _ (by positivity)
  simp only [elapsed, hw]
  rw [Int.toNat_of_nonneg hnonneg, Nat.cast_pow, Nat.cast_ofNat]

/-- What the timestamp drops of the clock is a multiple of the modulus, so the difference of two clock values survives
modulo `2 ^ w`. -/
theorem elapsed_stamp_of_width {p : Params} {w : Nat} (hw : p.timeWidth = some w) (now t0 : Nat) :
    (elapsed p (stamp p now) t0 : Int) = ((now : Int) - t0) % (2 : Int) ^ w := by
  rw [elapsed_of_width hw, stamp_of_width hw]
  push_cast
  exact Int.emod_sub_emod ..

/-- Settles O41: the difference, the modular difference, and the latter across one wrap of the clock. -/
theorem elapsedIsModularDifference : Obligations.ElapsedIsModularDifference := by
  refine ⟨fun p t t0 hnone hle => ?unbounded, fun p w t t0 hw => elapsed_of_width hw t t0,
    fun p w t0 d hw _ hd => ?wrap⟩
  case unbounded => rw [elapsed_of_unbounded hnone, Nat.cast_sub hle]
  case wrap =>
    have hmod : (d : Int) % (2 : Int) ^ w = d := Int.emod_eq_of_lt (Int.natCast_nonneg d) (by exact_mod_cast hd)
    have hdiff : ((t0 + d : Nat) : Int) - t0 = d := by omega
    have helapsed := elapsed_stamp_of_width hw (t0 + d) t0
    rw [hdiff, hmod] at helapsed
    exact_mod_cast helapsed

end Sys2Proof.Machine
end

section
/-! Reset and the life of a parameter, of 70_reset_and_hazards: what reset leaves of the decoder (R201), and that no
agent's step writes a parameter (R203). -/

namespace Sys2Proof.Machine

/-! ### Reset (R201) -/

/-- R5, R46: reset at the head of the script is one step, taken whatever the block was doing. -/
theorem step_reset (s : State) (rest : List InputEvent) :
    step { s with inputs := .reset :: rest } = .next (powerOn { s with inputs := rest }) := rfl

/-- Settles O48: power-on and the reset event leave the same decoder. -/
theorem resetLeavesDecoderIdleAndEmpty : Obligations.ResetLeavesDecoderIdleAndEmpty := by
  refine ⟨fun p => ?powerOn, fun s rest => ⟨_, step_reset s rest, ?event⟩⟩
  case powerOn => rw [State.resetWith, decoderReset]
  case event => rw [powerOn_dec, decoderReset]

/-! ### The parameters (R203) -/

@[simp] theorem sendCarDetected_params (v : Bool) (s : State) : (sendCarDetected v s).params = s.params := by
  rw [sendCarDetected_eq, send_params]

@[simp] theorem finishTick_params (s : State) : (finishTick s).params = s.params := by
  rw [finishTick, sendCarDetected_params]

@[simp] theorem tickBody_params (t : Nat) (raw : Bool) (s : State) : (tickBody t raw s).params = s.params := by
  obtain ⟨-, -, hquiet⟩ | ⟨-, -, hboth⟩ | ⟨-, hone⟩ := tickBody_cases t raw s
  · rw [hquiet, tickWrites_params]
  · simp only [hboth, sendCarDetected_params, tickWrites_params]
  · rw [hone, sendCarDetected_params, tickWrites_params]

theorem exec_keeps_params {i : Instr} {s t : State} (h : exec i s = .next t) : t.params = s.params := by
  obtain ⟨u, hu, ⟨hparams, -⟩, -⟩ := exec_spec i s
  obtain rfl : u = t := Host.Outcome.next.inj (hu.symm.trans h)
  exact hparams

/-- A byte short of a frame's last moves the session and raises errors only; the last byte dispatches. -/
theorem rxByte_keeps_params {b : Byte} {s t : State} (h : rxByte b s = .next t) : t.params = s.params := by
  obtain ⟨-, -, rfl⟩ | ⟨-, -, rfl⟩ | ⟨-, -, -, rfl⟩ | ⟨-, -, -, -, rfl⟩ | ⟨-, -, -, -, rfl⟩ | ⟨-, -, -, rfl⟩ |
    ⟨-, -, -, f, -, hexec⟩ := rxByte_cases h
  · exact setDec_params ..
  · rfl
  · rw [setDec_params, raise_params]
  · rw [setDec_params, raise_params]
  · exact setDec_params ..
  · exact setDec_params ..
  · rw [exec_keeps_params hexec, setDec_params]

/-- Settles O37: a byte is the RX agent's step, reset keeps the instance, and the other moves are the MAIN agent's. -/
theorem parametersNeverChange : Obligations.ParametersNeverChange := by
  intro s t hstep
  obtain ⟨b, rest, -, hbyte⟩ | ⟨-, -, rfl⟩ | ⟨-, -, rfl⟩ | ⟨-, -, -, -, -, rfl⟩ | ⟨-, -, -, -, -, -, rfl⟩ |
    ⟨-, -, -, rfl⟩ | ⟨-, -, -, rfl⟩ | ⟨rest, -, rfl⟩ := step_cases hstep
  · exact (rxByte_keeps_params hbyte :)
  · exact finishTick_params s
  · rfl
  · exact finishTick_params s
  · exact tickBody_params ..
  · exact finishTick_params _
  · rfl
  · exact powerOn_params _

end Sys2Proof.Machine
end

section
/-! Whole frames, of 30_encoding: what decodes is exactly what the layout of R70 gives for a payload that fits (R78), so
decoder and encoder are inverse to each other, and each of the 256 event ids has one row (R73). -/

namespace Sys2Proof.Machine

/-! ### What decodes (R70, R77, R78, R127) -/

/-- The record of a received frame (R28): the computed checksum is that of the covered region (R75). -/
def receivedFrame (id : Byte) (p : Bytes) (ck : Byte) : Frame where
  eventId := id
  payload := p
  checksumRx := ck
  checksumCalc := crc8 (coveredRegion id p)

theorem payloadFits_iff {cap : Nat} {p : Bytes} : payloadFits cap p = true ↔ p.length + 4 ≤ cap ∧ p.length ≤ 254 := by
  simp [payloadFits]

/-- The length byte does not wrap for a payload that fits. -/
theorem toNat_toByte_length {p : Bytes} (h : p.length ≤ 254) : (toByte (p.length + 1)).toNat = p.length + 1 := by
  rw [toByte, BitVec.toNat_ofNat]
  omega

/-- A non-zero length byte is the one the layout gives to a payload of its length. -/
theorem eq_toByte_length {len : Byte} (hlen : len ≠ 0) {p : Bytes} (hp : p.length = len.toNat - 1) :
    len = toByte (p.length + 1) := by
  have hpos : len.toNat ≠ 0 := fun h => hlen (BitVec.eq_of_toNat_eq h)
  rw [hp, Nat.sub_add_cancel (by omega), toByte, BitVec.ofNat_toNat, BitVec.setWidth_eq]

theorem decodeBody_append {len : Byte} {p : Bytes} (hp : p.length = len.toNat - 1) (id ck : Byte) (rest : Bytes) :
    decodeBody len (id :: (p ++ ck :: rest)) = .ok (frameInstr ⟨id, p, ck, crc8 (len :: id :: p)⟩, rest) := by
  simp [decodeBody, ← hp]

theorem decodeBody_ok {len : Byte} {body rest : Bytes} {i : Instr} (h : decodeBody len body = .ok (i, rest)) :
    ∃ id p ck, p.length = len.toNat - 1 ∧ body = id :: (p ++ ck :: rest) ∧
      i = frameInstr ⟨id, p, ck, crc8 (len :: id :: p)⟩ := by
  cases body with
  | nil => cases h
  | cons id tail =>
    simp only [decodeBody] at h
    split at h
    · cases h
    · next ck after hdrop =>
      cases h
      have hlong : len.toNat - 1 < tail.length :=
        Nat.lt_of_not_le fun hle => by simp [List.drop_of_length_le hle] at hdrop
      refine ⟨id, tail.take (len.toNat - 1), ck, List.length_take_of_le hlong.le, ?_, rfl⟩
      rw [← hdrop, List.take_append_drop]

theorem decode_startMarker (cap : Nat) (len : Byte) (body : Bytes) :
    decode cap (startMarker :: len :: body) =
      if len.toNat + 3 > cap then .error .overCapacity
      else if len = 0 then .error .lengthZero
      else decodeBody len body := by
  rw [decode, if_neg (not_not.2 rfl)]

theorem decode_frameBytes {cap : Nat} {p : Bytes} (h : payloadFits cap p = true) (id ck : Byte) (rest : Bytes) :
    decode cap (frameBytes id p ck ++ rest) = .ok (frameInstr (receivedFrame id p ck), rest) := by
  obtain ⟨hcap, hbyte⟩ := payloadFits_iff.1 h
  have hlen := toNat_toByte_length hbyte
  have hzero : toByte (p.length + 1) ≠ 0 := fun h0 => by simp [h0] at hlen
  have hlayout : frameBytes id p ck ++ rest = startMarker :: toByte (p.length + 1) :: id :: (p ++ ck :: rest) := by
    simp [frameBytes, coveredRegion]
  rw [hlayout, decode_startMarker, if_neg (by omega), if_neg hzero, decodeBody_append (by omega)]
  rfl

/-- The decoder accepts nothing but frames. -/
theorem decode_ok {cap : Nat} {bytes rest : Bytes} {i : Instr} (h : decode cap bytes = .ok (i, rest)) :
    ∃ id p ck, payloadFits cap p = true ∧ bytes = frameBytes id p ck ++ rest ∧
      i = frameInstr (receivedFrame id p ck) := by
  unfold decode at h
  split at h
  · cases h
  · next m tail =>
    split_ifs at h with hmarker
    split at h
    · cases h
    · next len body =>
      split_ifs at h with hover hzero
      obtain ⟨id, p, ck, hp, rfl, rfl⟩ := decodeBody_ok h
      have hlen := eq_toByte_length hzero hp
      have hpos : len.toNat ≠ 0 := fun h0 => hzero (BitVec.eq_of_toNat_eq h0)
      refine ⟨id, p, ck, payloadFits_iff.2 ⟨by omega, by have := len.isLt; omega⟩, ?_, ?_⟩
      · simp [frameBytes, coveredRegion, ← hlen, not_not.1 hmarker]
      · simp only [receivedFrame, coveredRegion, ← hlen]

/-! ### Decoder and encoder are inverse (R115) -/

theorem frameRoundTrip (i : Instr) : Laws.FrameRoundTrip.Statement i := by
  cases i with
  | display p => exact Laws.FrameRoundTrip.display p
  | setact p => exact Laws.FrameRoundTrip.setact p
  | cardet p => exact Laws.FrameRoundTrip.cardet p
  | plate p => exact Laws.FrameRoundTrip.plate p
  | lotfull p => exact Laws.FrameRoundTrip.lotfull p
  | unknown00 p => exact Laws.FrameRoundTrip.unknown00 p
  | unknown06to07 low p => exact Laws.FrameRoundTrip.unknown06to07 low p
  | unknown08to0F low p => exact Laws.FrameRoundTrip.unknown08to0F low p
  | unknown10to1F low p => exact Laws.FrameRoundTrip.unknown10to1F low p
  | unknown20to3F low p => exact Laws.FrameRoundTrip.unknown20to3F low p
  | unknown40to7F low p => exact Laws.FrameRoundTrip.unknown40to7F low p
  | unknown80toFF low p => exact Laws.FrameRoundTrip.unknown80toFF low p
  | invalidFrame id p rx computed => exact Laws.FrameRoundTrip.invalidFrame id p rx computed

/-- Settles O8: the frame of an instruction is received with the fields of that instruction. -/
theorem decodeOfEncodeIsIdentity : Obligations.DecodeOfEncodeIsIdentity := by
  intro cap i rest hwf
  obtain ⟨hfits, hround⟩ := frameRoundTrip i cap hwf
  have hreceived : receivedFrame (eventIdOf i) (payloadOf i) (checksumOf i) = frameOf i := rfl
  rw [encode, decode_frameBytes hfits, hreceived, hround]

/-- A valid frame is an instruction of its event id, any other an invalid one (R141). -/
theorem frameInstr_receivedFrame (id : Byte) (p : Bytes) (ck : Byte) :
    frameInstr (receivedFrame id p ck) =
      if ck = crc8 (coveredRegion id p) then eventInstr id p
      else .invalidFrame id p ck (crc8 (coveredRegion id p)) := by
  simp only [frameInstr, receivedFrame, frameValid_iff]

theorem encode_frameInstr (id : Byte) (p : Bytes) (ck : Byte) :
    encode (frameInstr (receivedFrame id p ck)) = frameBytes id p ck := by
  rw [frameInstr_receivedFrame]
  split
  case isTrue hvalid => rw [encode_eventInstr, hvalid]
  case isFalse => rfl

theorem wellFormed_frameInstr {cap : Nat} {p : Bytes} (h : payloadFits cap p = true) (id ck : Byte) :
    wellFormed cap (frameInstr (receivedFrame id p ck)) = true := by
  rw [frameInstr_receivedFrame]
  split
  case isTrue => rw [wellFormed_eventInstr, h]
  case isFalse hinvalid => simp [wellFormed, h, checksumsAreInvalid, frameValid, hinvalid]

/-- Settles O9: the bytes are a frame with a payload that fits, and its instruction keeps every field of it. -/
theorem decodedBytesReencode : Obligations.DecodedBytesReencode := by
  intro cap bytes i rest hdecode
  obtain ⟨id, p, ck, hfits, rfl, rfl⟩ := decode_ok hdecode
  exact ⟨wellFormed_frameInstr hfits id ck, by rw [encode_frameInstr]⟩

/-! ### The rows of the opcode table (R73, R80) -/

/-- Settles O10: the payload has no part in the choice of the row, so the 256 ids are all there is to check. -/
theorem eventIdSelectsOneOpcodeRow : Obligations.EventIdSelectsOneOpcodeRow := by
  intro id p
  rw [eventInstr_payload, mnemonicOf_setPayload]
  revert id
  decide +kernel

/-! ### Refusals by name (R88, R122) -/

/-- Settles O11: the marker is looked at first, then the capacity, then the zero, which no legal capacity refuses as an
overflow. -/
theorem decoderRefusesMalformedByName : Obligations.DecoderRefusesMalformedByName := by
  refine ⟨fun cap m rest hmarker => ?marker, fun cap len rest hover => ?overflow, fun p rest => ?zero⟩
  case marker => exact if_pos hmarker
  case overflow => exact (decode_startMarker cap len rest).trans (if_pos hover)
  case zero =>
    have hfits : ¬ (0x00 : Byte).toNat + 3 > p.capacity := Nat.not_lt.2 (Nat.le_of_succ_le (four_le_capacity p))
    exact (decode_startMarker p.capacity 0x00 rest).trans ((if_neg hfits).trans (if_pos rfl))

/-! ### Frames written out (95_test_vectors) -/

/-- A payload of one byte or none fits every legal capacity. -/
theorem payloadFits_of_length_le_one (params : Params) {p : Bytes} (h : p.length ≤ 1) :
    payloadFits params.capacity p = true :=
  payloadFits_iff.2 ⟨by rw [Params.capacity]; omega, by omega⟩

theorem decode_of_encode_eq {cap : Nat} {i : Instr} {bytes : Bytes} (hwf : wellFormed cap i = true)
    (hbytes : encode i = bytes) : decode cap bytes = .ok (i, []) := by
  rw [← hbytes, ← List.append_nil (encode i)]
  exact decodeOfEncodeIsIdentity cap i [] hwf

/-- Settles O12: the bytes are the encodings of the instructions, whose payloads fit the least buffers. -/
theorem writtenOutFramesDecode : Obligations.WrittenOutFramesDecode := by
  intro p
  have hnone := payloadFits_of_length_le_one p (p := []) (by simp)
  have hone (b : Byte) := payloadFits_singleton p b
  refine ⟨decode_of_encode_eq hnone ?_, decode_of_encode_eq (hone _) ?_, decode_of_encode_eq (hone _) ?_,
    decode_of_encode_eq (hone _) ?_, decode_of_encode_eq (hone _) ?_, decode_of_encode_eq hnone ?_,
    decode_of_encode_eq ?_ ?_⟩
  case refine_7 => simp only [wellFormed, hone, Bool.true_and]; decide +kernel
  all_goals decide +kernel

end Sys2Proof.Machine
end

section
/-! A frame in flight, of 42_decoder: each byte that is not the last is counted (R126), the last one completes and
dispatches (R127 to R129), so the bytes of an instruction run that instruction (R115). -/

namespace Sys2Proof.Machine

/-! ### A byte in `ReadingPayload` (R126 to R129) -/

theorem rxByte_of_counted {s : State} (hreading : s.dec.state = .readingPayload)
    (hroom : s.dec.buf.length < s.params.capacity) (hremaining : 2 ≤ s.dec.remaining) (b : Byte) :
    rxByte b s = .next (setDec { s.dec with
      buf := s.dec.buf ++ [b], remaining := s.dec.remaining - 1, crcAcc := crc8Step s.dec.crcAcc b } s) := by
  obtain ⟨n, hn⟩ := Nat.exists_eq_add_of_le' hremaining
  rw [rxByte, hreading]
  simp only [rxPayload, pushByte_of_lt hroom, hn]
  rfl

/-- Settles O16: only the count decides. -/
theorem payloadByteIsCountedWhateverItsValue : Obligations.PayloadByteIsCountedWhateverItsValue := by
  intro s b rest hreading hroom hremaining
  rw [step_rx, rxByte_of_counted (s := { s with inputs := rest }) hreading hroom hremaining]
  rfl

/-- R127: completion splits the buffer where the layout of R70 put the fields. -/
theorem splitFrame_of_frameBytes {d : Decoder} {id ck : Byte} {p : Bytes} (hbuf : d.buf = frameBytes id p ck)
    (hp : p.length ≤ 254) : splitFrame d = .ok ⟨id, p, ck, d.crcAcc⟩ := by
  have hlen := toNat_toByte_length hp
  have hbytes : d.buf = startMarker :: toByte (p.length + 1) :: id :: (p ++ [ck]) := hbuf
  rw [splitFrame_of_reads (len := toByte (p.length + 1)) (id := id) (rx := ck)]
  · simp [hbytes, hlen]
  · simp [hbytes]
  · simp [hbytes]
  · simp [hbytes]
  · simp [hbytes, hlen]

theorem frameBytes_eq_snoc (id : Byte) (p : Bytes) (ck : Byte) :
    frameBytes id p ck = startMarker :: coveredRegion id p ++ [ck] := rfl

theorem coveredRegion_length (id : Byte) (p : Bytes) : (coveredRegion id p).length = p.length + 2 := rfl

theorem frameBytes_length (id : Byte) (p : Bytes) (ck : Byte) : (frameBytes id p ck).length = p.length + 4 := by
  simp [frameBytes_eq_snoc, coveredRegion_length]

/-- The decoder has taken every byte of a frame but the last, and the frame fits the buffers. -/
structure AwaitsLast (cap : Nat) (d : Decoder) (id : Byte) (p : Bytes) : Prop where
  reading : d.state = .readingPayload
  last : d.remaining = 1
  buf : d.buf = startMarker :: coveredRegion id p
  crc : d.crcAcc = crc8 (coveredRegion id p)
  fits : payloadFits cap p = true

/-- R127 to R129: the last byte, whatever it is, dispatches the frame it completes. -/
theorem rxByte_of_last {s : State} {id : Byte} {p : Bytes} (h : AwaitsLast s.params.capacity s.dec id p) (b : Byte) :
    rxByte b s = exec (frameInstr (receivedFrame id p b)) (setDec (endSession s.dec) s) := by
  obtain ⟨hcap, hbyte⟩ := payloadFits_iff.1 h.fits
  have hroom : s.dec.buf.length < s.params.capacity := by
    rw [h.buf, List.length_cons, coveredRegion_length]
    omega
  have hfull : (filled s.dec b).buf = frameBytes id p b := by rw [frameBytes_eq_snoc, ← h.buf]
  have hsplit : splitFrame (filled s.dec b) = .ok (receivedFrame id p b) := by
    rw [splitFrame_of_frameBytes hfull hbyte, receivedFrame, ← h.crc]
  rw [rxByte, h.reading]
  simp only [rxPayload, pushByte_of_lt hroom, h.last, completeFrame, hsplit]
  rfl

/-- R39 (c) leaves no other shape to a decoder with one byte to come. -/
theorem awaitsLast_of_inv {cap : Nat} {d : Decoder} (hinv : DecoderInv cap d) (hreading : d.state = .readingPayload)
    (hlast : d.remaining = 1) : ∃ id p, AwaitsLast cap d id p := by
  obtain ⟨-, -, -, -, hpayload⟩ := hinv
  obtain ⟨hmarker, -, hzero, hexpected, hcap, hcount, -, hcrc⟩ := hpayload hreading
  obtain ⟨m, len, q, hbuf⟩ : ∃ m len q, d.buf = m :: len :: q := by
    match hb : d.buf with
    | [] | [_] => simp [hb] at hzero
    | m :: len :: q => exact ⟨m, len, q, rfl⟩
  simp only [hbuf, List.getD_cons_zero, List.getD_cons_succ, List.length_cons, List.drop_succ_cons, List.drop_zero]
    at hmarker hzero hexpected hcount hcrc
  obtain ⟨id, p, rfl⟩ : ∃ id p, q = id :: p := by
    refine List.exists_cons_of_length_pos ?_
    have : len.toNat ≠ 0 := fun h0 => hzero (BitVec.eq_of_toNat_eq h0)
    omega
  rw [List.length_cons] at hcount
  have hlen : len = toByte (p.length + 1) := eq_toByte_length hzero (by omega)
  have hregion : len :: id :: p = coveredRegion id p := by rw [coveredRegion, ← hlen]
  refine ⟨id, p, hreading, hlast, ?_, ?_, payloadFits_iff.2 ⟨by omega, by have := len.isLt; omega⟩⟩
  · rw [hbuf, hmarker, hregion]
  · rw [hcrc, hregion]

/-- Settles O18: the buffer is a frame but for its checksum byte. -/
theorem completedFrameAlwaysDecodes : Obligations.CompletedFrameAlwaysDecodes := by
  intro cap d b hinv hreading hlast
  obtain ⟨id, p, h⟩ := awaitsLast_of_inv hinv hreading hlast
  refine ⟨_, ?_, wellFormed_frameInstr h.fits id b⟩
  have hdecode := decode_frameBytes h.fits id b []
  rwa [List.append_nil, frameBytes_eq_snoc, ← h.buf] at hdecode

/-- Settles O17: the step and the decoding of the buffered bytes both classify the one received frame. -/
theorem stepRunsDecodedInstruction : Obligations.StepRunsDecodedInstruction := by
  intro s b rest i hinv hreading hlast hdecode
  obtain ⟨id, p, h⟩ := awaitsLast_of_inv hinv hreading hlast
  have hframe := decode_frameBytes h.fits id b []
  rw [List.append_nil, frameBytes_eq_snoc, ← h.buf, hdecode] at hframe
  obtain rfl : i = frameInstr (receivedFrame id p b) := by simpa using hframe
  rw [step_rx, rxByte_of_last (s := { s with inputs := rest }) h]
  rfl

/-! ### A frame fed byte by byte (R115) -/

/-- The session of the decoder `d`, idle at first, once it has taken the first bytes of a frame. -/
def sessionAfter (d : Decoder) : Bytes → Decoder
  | [] => d
  | [m] => { d with state := .readingLength, buf := [m] }
  | m :: len :: q =>
    { state := .readingPayload, buf := m :: len :: q, remaining := len.toNat + 1 - q.length,
      expectedLen := len.toNat + 3, crcAcc := crc8 (len :: q) }

/-- One byte that is not the last of its frame, in each of the three decoder states. -/
theorem rxByte_sessionAfter {s : State} {id ck b : Byte} {p taken left : Bytes} (hidle : s.dec.state = .idle)
    (hfits : payloadFits s.params.capacity p = true) (hframe : frameBytes id p ck = taken ++ b :: left)
    (hleft : left ≠ []) :
    rxByte b (setDec (sessionAfter s.dec taken) s) = .next (setDec (sessionAfter s.dec (taken ++ [b])) s) := by
  obtain ⟨hcap, hbyte⟩ := payloadFits_iff.1 hfits
  have hlen := toNat_toByte_length hbyte
  have hcount := congrArg List.length hframe
  rw [frameBytes_length, List.length_append, List.length_cons] at hcount
  have hpos := List.length_pos_iff.2 hleft
  match taken with
  | [] =>
    obtain rfl : startMarker = b := (List.cons.inj hframe).1
    exact (rxByte_of_idle hidle startMarker).trans (by rw [if_pos rfl]; rfl)
  | [m] =>
    obtain rfl : toByte (p.length + 1) = b := (List.cons.inj (List.cons.inj hframe).2).1
    have hzero : toByte (p.length + 1) ≠ 0 := fun h0 => by simp [h0] at hlen
    rw [rxByte_of_readingLength (by rfl) (by simp [sessionAfter]; omega), setDec_params,
      if_neg (by omega), if_neg hzero]
    rfl
  | m :: len :: q =>
    obtain rfl : toByte (p.length + 1) = len := (List.cons.inj (List.cons.inj hframe).2).1
    simp only [List.length_cons] at hcount
    rw [rxByte_of_counted (by rfl) (by simp [sessionAfter]; omega) (by simp [sessionAfter]; omega)]
    simp only [setDec_dec, sessionAfter, ← crc8_snoc, List.cons_append, List.length_append, List.length_singleton,
      Nat.sub_sub]
    rfl

theorem runFor_one (s : State) : runFor 1 s = step s := by
  simp only [runFor]
  cases step s <;> rfl

/-- Up to its last byte a frame only moves the session. -/
theorem runFor_frameBytes {s : State} {id ck : Byte} {p : Bytes} (hidle : s.dec.state = .idle)
    (hfits : payloadFits s.params.capacity p = true) (rest : List InputEvent) {k : Nat}
    (hk : k < (frameBytes id p ck).length) :
    runFor k { s with inputs := (frameBytes id p ck).map .rx ++ rest } =
      .next { s with
        dec := sessionAfter s.dec ((frameBytes id p ck).take k)
        inputs := ((frameBytes id p ck).drop k).map .rx ++ rest } := by
  induction k with
  | zero => rfl
  | succ k ih =>
    have hlt : k < (frameBytes id p ck).length := by omega
    have hdrop := List.drop_eq_getElem_cons hlt
    have hsplit : frameBytes id p ck =
        (frameBytes id p ck).take k ++ (frameBytes id p ck)[k] :: (frameBytes id p ck).drop (k + 1) := by
      rw [← hdrop, List.take_append_drop]
    have hbyte := rxByte_sessionAfter (s := { s with inputs := ((frameBytes id p ck).drop (k + 1)).map .rx ++ rest })
      hidle hfits hsplit (by simpa using hk)
    rw [runFor_add (ih hlt) 1, runFor_one, hdrop, List.take_succ_eq_append_getElem hlt]
    exact hbyte

/-- All bytes of a frame but the last leave the decoder waiting for the last. -/
theorem awaitsLast_sessionAfter {cap : Nat} {p : Bytes} (hfits : payloadFits cap p = true) (d : Decoder) (id : Byte) :
    AwaitsLast cap (sessionAfter d (startMarker :: coveredRegion id p)) id p := by
  have hlen := toNat_toByte_length (payloadFits_iff.1 hfits).2
  exact ⟨rfl, by simp [sessionAfter, coveredRegion, hlen], rfl, rfl, hfits⟩

/-- The whole frame runs the instruction it is received as, in a session that is over. -/
theorem runFor_whole_frame {s : State} {p : Bytes} (hidle : s.dec.state = .idle)
    (hfits : payloadFits s.params.capacity p = true) (id ck : Byte) (rest : List InputEvent) :
    runFor (frameBytes id p ck).length { s with inputs := (frameBytes id p ck).map .rx ++ rest } =
      exec (frameInstr (receivedFrame id p ck)) { s with
        inputs := rest
        dec := { state := .idle, buf := [], remaining := 0, expectedLen := 0,
                 crcAcc := crc8 (coveredRegion id p) } } := by
  have hcount : (frameBytes id p ck).length = (startMarker :: coveredRegion id p).length + 1 := by
    rw [frameBytes_eq_snoc, List.length_append, List.length_singleton]
  have hfirst := runFor_frameBytes (ck := ck) (id := id) hidle hfits rest
    (k := (startMarker :: coveredRegion id p).length) (by omega)
  have hlast := awaitsLast_sessionAfter hfits s.dec id
  rw [hcount, runFor_add hfirst 1, runFor_one, frameBytes_eq_snoc, List.take_left, List.drop_left]
  exact rxByte_of_last
    (s := { s with inputs := rest, dec := sessionAfter s.dec (startMarker :: coveredRegion id p) }) hlast ck

/-- Settles O19: the bytes before the last only move the session, and the frame that `encode` laid out is received with
the fields of the instruction. -/
theorem frameStreamRunsItsInstruction : Obligations.FrameStreamRunsItsInstruction := by
  intro s i rest hidle hwf fed
  obtain ⟨hfits, hinstr⟩ := frameRoundTrip i _ hwf
  refine ⟨?last, fun k hk => ⟨_, runFor_frameBytes hidle hfits rest hk, rfl⟩⟩
  have hrun := runFor_whole_frame hidle hfits (eventIdOf i) (checksumOf i) rest
  have hreceived : receivedFrame (eventIdOf i) (payloadOf i) (checksumOf i) = frameOf i := rfl
  rwa [hreceived, hinstr] at hrun

end Sys2Proof.Machine
end

section
/-! The step by the move at the head of the script (R5, R64). -/

namespace Sys2Proof.Machine

theorem step_of_nil {s : State} (h : s.inputs = []) : step s = .next (if s.midTick then finishTick s else s) := by
  simp only [step, h]
  exact (apply_ite Host.Outcome.next ..).symm

theorem step_of_rx {s : State} {b : Byte} {rest : List InputEvent} (h : s.inputs = .rx b :: rest) :
    step s = rxByte b { s with inputs := rest } := by
  simp only [step, h]

theorem step_of_tick {s : State} {now : Nat} {raw : Bool} {rest : List InputEvent}
    (h : s.inputs = .tick now raw :: rest) :
    step s = if s.midTick then .next (finishTick s) else tick now raw { s with inputs := rest } := by
  simp only [step, h]

theorem step_of_resume {s : State} {rest : List InputEvent} (h : s.inputs = .resume :: rest) :
    step s = .next (if s.midTick then finishTick { s with inputs := rest } else { s with inputs := rest }) := by
  simp only [step, h]
  exact (apply_ite Host.Outcome.next ..).symm

theorem step_of_reset {s : State} {rest : List InputEvent} (h : s.inputs = .reset :: rest) :
    step s = .next (powerOn { s with inputs := rest }) := by
  simp only [step, h]

end Sys2Proof.Machine
end

section
/-! The algebra of the checksum (R103, R104), the encoder seen from the decoder's guard (R111, R124) and from the
presence monitor (R116), and the frames of opcode-table words. -/

namespace Sys2Proof.Machine

/-! ### The checksum unit (R103, R104) -/

/-- Settles O2: the checksum is a fold. -/
theorem crcContinuesOverConcatenation : Obligations.CrcContinuesOverConcatenation :=
  fun s t => crc8From_append 0x00 s t

theorem crc8Step_self (c : Byte) : crc8Step c c = 0x00 := by
  rw [crc8Step, BitVec.xor_self]
  decide

/-- The register reaches 0 on its own value and, since no two bytes lead to one value, on no other. -/
theorem crc8Step_eq_zero_iff {c x : Byte} : crc8Step c x = 0x00 ↔ x = c := by
  rw [← crc8Step_self c]
  exact (crc8Step_right_injective c).eq_iff

/-- Settles O3: the appended byte is the last step of the fold. -/
theorem crcResidueZeroIffChecksum : Obligations.CrcResidueZeroIffChecksum := by
  refine ⟨fun s x => ?residue, fun len id ck p => ?frame⟩
  case residue => rw [crc8_snoc, crc8Step_eq_zero_iff]
  case frame => rw [crc8_snoc, crc8Step_eq_zero_iff, frameValid_iff]

/-! ### The encoder (R111, R116) -/

/-- The outbound frame of a presence value (R79). -/
def carDetectedFrame (v : Bool) : Bytes :=
  if v then [0xAA, 0x02, 0x03, 0x01, 0xEE] else [0xAA, 0x02, 0x03, 0x00, 0xE9]

theorem encodeCarDetected_eq (p : Params) (v : Bool) :
    encodeCarDetected p.capacity v = .ok (carDetectedFrame v) := by
  rw [encodeCarDetected, encodeEvent_of_fits (payloadFits_singleton p _)]
  cases v <;> decide +kernel

/-- Settles O6: one payload byte fits the least buffers. -/
theorem carDetectedFramesAlwaysEncode : Obligations.CarDetectedFramesAlwaysEncode :=
  fun p => ⟨encodeCarDetected_eq p true, encodeCarDetected_eq p false⟩

theorem encodeEvent_eq_ok_iff {cap : Nat} (hcap : 4 ≤ cap) {id : Byte} {p frame : Bytes} :
    encodeEvent cap id p = .ok frame ↔
      payloadFits cap p = true ∧ frame = frameBytes id p (crc8 (coveredRegion id p)) := by
  by_cases h : payloadFits cap p = true
  · simp [encodeEvent_of_fits h, h, eq_comm]
  · simp [encodeEvent_of_not_fits hcap h, h]

/-- Settles O7: both sides of the guard say that the payload fits the frame of R78. -/
theorem guardAdmitsWhatEncoderProduces : Obligations.GuardAdmitsWhatEncoderProduces := by
  refine ⟨fun p len id payload hlen hpayload => ?guard, fun p id payload frame hencode => ?lengthByte⟩
  case guard =>
    have hcap := four_le_capacity p
    have hpos : len.toNat ≠ 0 := fun h0 => hlen (BitVec.eq_of_toNat_eq h0)
    have hbyte := len.isLt
    simp only [encodeEvent_eq_ok_iff hcap, payloadFits_iff, exists_and_left, exists_eq, and_true]
    omega
  case lengthByte =>
    obtain ⟨hfits, rfl⟩ := (encodeEvent_eq_ok_iff (four_le_capacity p)).1 hencode
    obtain ⟨hcap, hbyte⟩ := payloadFits_iff.1 hfits
    have hlen := toNat_toByte_length hbyte
    refine ⟨toByte (payload.length + 1), rfl, fun h0 => ?_, by omega, by omega⟩
    simp [h0] at hlen

/-! ### Opcode-table words (log entry 8) -/

theorem tablePayload_id (id : Byte) : tablePayload 8 id.toNat = [0x00] := by
  have hshift : id.toNat >>> 8 = 0 := Nat.shiftRight_eq_zero _ _ id.isLt
  simp [tablePayload, hshift, toByte]

/-- A word that holds an id alone stands for the frame of that id with one zero byte. -/
theorem tableFrame_id (id : Byte) : tableFrame 8 id.toNat = .ok (encode (eventInstr id [0x00])) := by
  have hid : toByte id.toNat = id := by rw [toByte, BitVec.ofNat_toNat, BitVec.setWidth_eq]
  rw [tableFrame, tablePayload_id, hid, encodeEvent_of_fits (payloadFits_singleton _ _), encode_eventInstr]

theorem awaitsLast_decoderBeforeLast {cap : Nat} {p : Bytes} (hfits : payloadFits cap p = true) (id ck : Byte) :
    AwaitsLast cap (decoderBeforeLast (frameBytes id p ck)) id p := by
  have hinit : (frameBytes id p ck).dropLast = startMarker :: coveredRegion id p := by
    rw [frameBytes_eq_snoc, List.dropLast_concat]
  refine ⟨rfl, rfl, hinit, ?_, hfits⟩
  rw [decoderBeforeLast, hinit, List.drop_one, List.tail_cons]

/-- A placed frame is dispatched by the very next step. -/
theorem step_placeFrame {s : State} {p : Bytes} (hfits : payloadFits s.params.capacity p = true) (id ck : Byte) :
    step (placeFrame (frameBytes id p ck) s) =
      exec (frameInstr (receivedFrame id p ck)) { s with
        dec := { state := .idle, buf := [], remaining := 0, expectedLen := 0,
                 crcAcc := crc8 (coveredRegion id p) } } := by
  have hawaits := awaitsLast_decoderBeforeLast hfits id ck
  have hlast : (frameBytes id p ck).getLastD 0 = ck := by rw [frameBytes_eq_snoc, List.getLastD_concat]
  rw [placeFrame, step_of_rx rfl, rxByte_of_last hawaits, hlast, ← hawaits.crc]
  rfl

/-- Settles O57: the frame of the word is the encoding of the instruction of its id. -/
theorem placedTableWordRunsNext : Obligations.PlacedTableWordRunsNext := by
  intro id
  have hfits := payloadFits_singleton instanceParams 0x00
  have hwf := (wellFormed_eventInstr instanceParams.capacity id [0x00]).trans hfits
  refine ⟨?decode, ?step⟩
  case decode => rw [decodeTableWord, tableFrame_id]; simp only [decode_of_encode_eq hwf rfl]
  case step =>
    rw [State.withFetchWord, tableFrame_id]
    simp only [encode_eventInstr]
    rw [step_placeFrame (s := State.reset) hfits, frameInstr_receivedFrame, if_pos rfl]
    rfl

end Sys2Proof.Machine
end

section
/-! The labels of one step, of 20_memory, 43_dispatcher and 60_exceptions: which shapes the labels of a byte's step and
of any other step have (R56, R142 to R149, R164, R187), and what follows for each label. -/

namespace Sys2Proof.Machine

/-! ### The transmit primitive (R57) -/

theorem send_eq (a : Agent) (m : Bytes) (s : State) :
    send a m s = { afterDraw s with out := s.out ++ sendLabels a m (nextOutcome s m.length) } := by
  simp only [send, emit, afterDraw_out]

/-- What a message put on the wire, whatever error label comes with it. -/
theorem wireBytes_sendLabels (a : Agent) (m : Bytes) (o : SendOutcome) :
    wireBytes (sendLabels a m o) = wireOf (.tx a m o) := by
  cases o <;> simp [wireBytes, sendLabels, wireOf]

/-- Settles O33: a settled legal outcome is taken as it is, and a free one is legal. -/
theorem sendTakesAnyLegalOutcome : Obligations.SendTakesAnyLegalOutcome := by
  intro a m s hm
  refine ⟨⟨nextOutcome s m.length, nextOutcome_legal s (List.length_pos_iff.2 hm), send_eq a m s⟩,
    fun o rest hlegal => ?settled, rfl, wireBytes_sendLabels a m .sent,
    fun k => ⟨rfl, wireBytes_sendLabels a m (.failed k)⟩⟩
  case settled => rw [send_of_answer, limitOutcome_of_legal hlegal]; rfl

theorem tx_mem_sendLabels {a a' : Agent} {m m' : Bytes} {o o' : SendOutcome} :
    .tx a' m' o' ∈ sendLabels a m o ↔ a' = a ∧ m' = m ∧ o' = o := by
  cases o <;> simp [sendLabels]

theorem countP_isTx_sendLabels (a : Agent) (m : Bytes) (o : SendOutcome) : (sendLabels a m o).countP isTx = 1 := by
  cases o <;> rfl

theorem countP_isWrite_sendLabels (a : Agent) (m : Bytes) (o : SendOutcome) :
    (sendLabels a m o).countP isWrite = 0 := by
  cases o <;> rfl

/-! ### A byte's step (R142 to R149, R181 to R183) -/

/-- The next byte is the last of its frame. -/
abbrev Completing (d : Decoder) : Prop := d.state = .readingPayload ∧ d.remaining = 1

/-- The labels that taking the byte `b` in the session `d` may add. -/
inductive RxLabels (p : Params) (d : Decoder) (b : Byte) : List Label → Prop where
  | quiet (hd : ¬ Completing d) : RxLabels p d b []
  | overflow (hd : ¬ Completing d) (hb : b.toNat + 3 > p.capacity) : RxLabels p d b [.err (.overflow b)]
  | badLength (hd : ¬ Completing d) (hb : b = 0x00) : RxLabels p d b [.err (.badLength b)]
  | invalid {rx computed : Byte} {o : SendOutcome} (hd : Completing d) (hne : rx ≠ computed)
      (ho : outcomeLegal 4 o = true) : RxLabels p d b (.err (.checksum rx computed) :: sendLabels .rx errReply o)
  | valid {f : Frame} {o : SendOutcome} {w : List Label} (hd : Completing d) (hf : splitFrame (filled d b) = .ok f)
      (ho : outcomeLegal 3 o = true) (hw : ActionLabels p f.payload w) : RxLabels p d b (sendLabels .rx okReply o ++ w)

theorem rxByte_labels {b : Byte} {s t : State} (h : rxByte b s = .next t) :
    ∃ ls, t.out = s.out ++ ls ∧ RxLabels s.params s.dec b ls := by
  obtain ⟨hd, -, rfl⟩ | ⟨hd, -, rfl⟩ | ⟨hd, -, hover, rfl⟩ | ⟨hd, -, -, hzero, rfl⟩ | ⟨hd, -, -, -, rfl⟩ |
    ⟨hd, -, hmore, rfl⟩ | ⟨hd, -, hlast, f, hf, hexec⟩ := rxByte_cases h
  · exact ⟨[], by simp, .quiet (by simp [hd])⟩
  · exact ⟨[], by simp, .quiet (by simp [hd])⟩
  · exact ⟨_, rfl, .overflow (by simp [hd]) hover⟩
  · exact ⟨_, rfl, .badLength (by simp [hd]) hzero⟩
  · exact ⟨[], by simp, .quiet (by simp [hd])⟩
  · exact ⟨[], by simp, .quiet (by simp [hd]; omega)⟩
  · obtain ⟨u, hu, -, -, ⟨id, p, rx, computed, hi, hout⟩ | ⟨-, w, hw, hout⟩⟩ :=
      exec_spec (frameInstr f) (setDec (endSession (filled s.dec b)) s)
    all_goals obtain rfl : u = t := Host.Outcome.next.inj (hu.symm.trans hexec)
    · obtain ⟨hne, rfl⟩ := (frameInstr_invalid_iff ..).1 hi
      exact ⟨_, hout, .invalid ⟨hd, hlast⟩ hne (nextOutcome_legal _ (by decide))⟩
    · rw [payloadOf_frameInstr] at hw
      rw [List.append_assoc] at hout
      exact ⟨_, hout, .valid ⟨hd, hlast⟩ hf (nextOutcome_legal _ (by decide)) hw⟩

theorem ActionLabels.tx_not_mem {p : Params} {payload : Bytes} {w : List Label} (h : ActionLabels p payload w)
    (a : Agent) (m : Bytes) (o : SendOutcome) : .tx a m o ∉ w := by
  obtain rfl | ⟨_, -, rfl⟩ | ⟨_, -, rfl⟩ := h <;> simp

/-- An action is at most one write, and no transmission. -/
theorem ActionLabels.counts {p : Params} {payload : Bytes} {w : List Label} (h : ActionLabels p payload w) :
    w.countP isTx = 0 ∧ w.countP isWrite ≤ 1 := by
  obtain rfl | ⟨a, -, rfl⟩ | ⟨x, -, rfl⟩ := h <;> simp [isTx, isWrite]

/-- Settles O31: only a completed frame is answered, by one reply. -/
theorem oneReplyPerFrameAtMostOneWrite : Obligations.OneReplyPerFrameAtMostOneWrite := by
  intro s t b rest hstep
  obtain ⟨ls, hout, hls⟩ := rxByte_labels (s := { s with inputs := rest }) hstep
  refine ⟨ls, hout, ?_⟩
  cases hls with
  | quiet hd => simp [if_neg hd]
  | overflow hd => simp [if_neg hd, isTx, isWrite]
  | badLength hd => simp [if_neg hd, isTx, isWrite]
  | invalid hd =>
    simp [if_pos hd, countP_isTx_sendLabels, countP_isWrite_sendLabels, isTx, isWrite]
  | valid hd _ _ hw =>
    obtain ⟨htx, hwrite⟩ := hw.counts
    simp [if_pos hd, countP_isTx_sendLabels, countP_isWrite_sendLabels, htx, hwrite]

/-- Settles O35: the five shapes are those of a byte's labels with their conditions left out. -/
theorem rxStepLabelShapes : Obligations.RxStepLabelShapes := by
  intro s t b rest hstep
  obtain ⟨ls, hout, hls⟩ := rxByte_labels (s := { s with inputs := rest }) hstep
  refine ⟨ls, hout, ?_⟩
  cases hls with
  | quiet => exact .inl rfl
  | overflow => exact .inr (.inl rfl)
  | badLength _ hb => exact .inr (.inr (.inl ⟨rfl, hb⟩))
  | invalid _ hne => exact .inr (.inr (.inr (.inl ⟨_, _, _, hne, rfl⟩)))
  | valid _ _ _ hw =>
    refine .inr (.inr (.inr (.inr ⟨_, _, rfl, ?_⟩)))
    obtain rfl | ⟨a, -, rfl⟩ | ⟨x, -, rfl⟩ := hw
    · exact .inl rfl
    · exact .inr (.inl ⟨a, rfl⟩)
    · exact .inr (.inr ⟨x, rfl⟩)

/-! ### Any other step (R163, R164) -/

theorem sendCarDetected_eq_send (v : Bool) (s : State) :
    sendCarDetected v s = send .main (carDetectedFrame v) s := by
  rw [sendCarDetected_eq, carDetectedFrame]

theorem carDetectedFrame_length (v : Bool) : (carDetectedFrame v).length = 5 := by
  cases v <;> rfl

/-- The labels that a step of the MAIN agent may add. -/
inductive MainLabels : List Label → Prop where
  | quiet : MainLabels []
  | sent (v : Bool) {o : SendOutcome} (ho : outcomeLegal 5 o = true) :
      MainLabels (sendLabels .main (carDetectedFrame v) o)

theorem sendCarDetected_labels (v : Bool) (s : State) :
    ∃ ls, (sendCarDetected v s).out = s.out ++ ls ∧ MainLabels ls := by
  rw [sendCarDetected_eq_send, send_out, carDetectedFrame_length]
  exact ⟨_, rfl, .sent v (nextOutcome_legal s (by decide))⟩

theorem finishTick_labels (s : State) : ∃ ls, (finishTick s).out = s.out ++ ls ∧ MainLabels ls :=
  sendCarDetected_labels s.pres.debounced { s with midTick := false }

theorem tickBody_labels (t : Nat) (raw : Bool) (s : State) :
    ∃ ls, (tickBody t raw s).out = s.out ++ ls ∧ MainLabels ls := by
  have hsent := sendCarDetected_labels (tickPresence s.params t raw s.pres).debounced (tickWrites t raw s)
  obtain ⟨-, -, hquiet⟩ | ⟨-, -, hboth⟩ | ⟨-, hone⟩ := tickBody_cases t raw s
  · exact ⟨[], by rw [hquiet, tickWrites_out, List.append_nil], .quiet⟩
  · rw [hboth]; exact hsent
  · rw [hone]; exact hsent

/-! ### Every step (R42, R47, R56) -/

/-- The labels a step from `s` may add, for the agent whose step it is (R64). -/
def AgentLabels (s : State) (ls : List Label) : Prop :=
  (∃ b rest, s.inputs = .rx b :: rest ∧ RxLabels s.params s.dec b ls) ∨ (byteNext s = false ∧ MainLabels ls)

theorem step_labels {s t : State} (h : step s = .next t) : ∃ ls, t.out = s.out ++ ls ∧ AgentLabels s ls := by
  have hmain {u : State} (hnext : byteNext s = false) (hu : ∃ ls, u.out = s.out ++ ls ∧ MainLabels ls) :
      ∃ ls, u.out = s.out ++ ls ∧ AgentLabels s ls :=
    hu.imp fun _ ⟨hout, hls⟩ => ⟨hout, .inr ⟨hnext, hls⟩⟩
  have hquiet : ∃ ls, s.out = s.out ++ ls ∧ MainLabels ls := ⟨[], (List.append_nil _).symm, .quiet⟩
  obtain ⟨b, rest, hi, hbyte⟩ | ⟨hi, -, rfl⟩ | ⟨hi, -, rfl⟩ | ⟨_, _, _, hi, -, rfl⟩ | ⟨_, _, rest, hi, -, -, rfl⟩ |
    ⟨rest, hi, -, rfl⟩ | ⟨rest, hi, -, rfl⟩ | ⟨rest, hi, rfl⟩ := step_cases h
  · obtain ⟨ls, hout, hls⟩ := rxByte_labels hbyte
    exact ⟨ls, hout, .inl ⟨b, rest, hi, hls⟩⟩
  · exact hmain (by simp only [byteNext, hi]) (finishTick_labels s)
  · exact hmain (by simp only [byteNext, hi]) hquiet
  · exact hmain (by simp only [byteNext, hi]) (finishTick_labels s)
  · exact hmain (by simp only [byteNext, hi]) (tickBody_labels _ _ { s with inputs := rest })
  · exact hmain (by simp only [byteNext, hi]) (finishTick_labels { s with inputs := rest })
  · exact hmain (by simp only [byteNext, hi]) hquiet
  · exact hmain (by simp only [byteNext, hi]) hquiet

/-- Settles O36: the labels added come after those there were. -/
theorem stepOnlyAppendsLabels : Obligations.StepOnlyAppendsLabels := by
  intro s t hstep
  obtain ⟨ls, hout, -⟩ := step_labels hstep
  exact ⟨ls, hout.symm⟩

/-- The RX agent transmits nothing but replies. -/
theorem RxLabels.transmission {p : Params} {d : Decoder} {b : Byte} {ls : List Label} (h : RxLabels p d b ls)
    {a : Agent} {m : Bytes} {o : SendOutcome} (hl : .tx a m o ∈ ls) : a = .rx ∧ (m = okReply ∨ m = errReply) := by
  cases h with
  | quiet => simp at hl
  | overflow => simp at hl
  | badLength => simp at hl
  | invalid =>
    obtain ⟨ha, hm, -⟩ := tx_mem_sendLabels.1 ((List.mem_cons.1 hl).resolve_left nofun)
    exact ⟨ha, .inr hm⟩
  | valid _ _ _ hw =>
    obtain ⟨ha, hm, -⟩ := tx_mem_sendLabels.1 ((List.mem_append.1 hl).resolve_right (hw.tx_not_mem a m o))
    exact ⟨ha, .inl hm⟩

/-- The MAIN agent transmits nothing but `CarDetected` frames. -/
theorem MainLabels.transmission {ls : List Label} (h : MainLabels ls) {a : Agent} {m : Bytes} {o : SendOutcome}
    (hl : .tx a m o ∈ ls) : a = .main ∧ (m = carDetectedFrame true ∨ m = carDetectedFrame false) := by
  cases h with
  | quiet => simp at hl
  | sent v =>
    obtain ⟨ha, hm, -⟩ := tx_mem_sendLabels.1 hl
    cases v with
    | true => exact ⟨ha, .inl hm⟩
    | false => exact ⟨ha, .inr hm⟩

/-- The MAIN agent writes no collaborator. -/
theorem MainLabels.isWrite_eq_false {ls : List Label} (h : MainLabels ls) {l : Label} (hl : l ∈ ls) :
    isWrite l = false := by
  cases h with
  | quiet => simp at hl
  | sent v => simpa using List.countP_eq_zero.1 (countP_isWrite_sendLabels _ _ _) l hl

/-- Settles O34: the labels are those of the agent whose step it is. -/
theorem agentsKeepTheirOutputs : Obligations.AgentsKeepTheirOutputs := by
  intro s t hstep
  obtain ⟨ls, hout, ⟨b, rest, hi, hls⟩ | ⟨hnext, hls⟩⟩ := step_labels hstep
  · have hnext : byteNext s = true := by simp only [byteNext, hi]
    refine ⟨ls, hout, fun l hl => ⟨?_, fun _ => hnext⟩⟩
    rintro a m o rfl
    rw [if_pos hnext]
    exact hls.transmission hl
  · refine ⟨ls, hout, fun l hl => ⟨?_, fun hwrite => ?_⟩⟩
    · rintro a m o rfl
      rw [if_neg (by simp [hnext])]
      exact hls.transmission hl
    · simp [hls.isWrite_eq_false hl] at hwrite

end Sys2Proof.Machine
end

section
/-! Isolation of the two agents (R56, R167, R168) and of an idle decoder's leftovers (R39 a): a step commutes with a
change of the state its agent does not own. -/

namespace Sys2Proof.Machine

/-! ### A byte's step and presence state (R168) -/

/-- The same block with other state of the MAIN agent. -/
def withMain (pr : Presence) (mid : Bool) (seen : Nat) (s : State) : State :=
  { s with pres := pr, midTick := mid, lastNow := seen }

section
variable (pr : Presence) (mid : Bool) (seen : Nat)

theorem send_withMain (a : Agent) (m : Bytes) (s : State) :
    send a m (withMain pr mid seen s) = withMain pr mid seen (send a m s) := by
  simp only [send, afterDraw, nextOutcome, withMain]
  cases s.answers <;> rfl

theorem replyOk_withMain (s : State) : replyOk (withMain pr mid seen s) = withMain pr mid seen (replyOk s) :=
  send_withMain ..

theorem emptyArgAct_withMain (s : State) :
    emptyArgAct (withMain pr mid seen s) = withMain pr mid seen (emptyArgAct s) := by
  simp only [emptyArgAct, withMain]
  cases s.params.emptyArgPolicy with
  | ignore => rfl
  | draw => cases Config.drawnAngle s.draws <;> rfl

theorem emptyArgDisp_withMain (s : State) :
    emptyArgDisp (withMain pr mid seen s) = withMain pr mid seen (emptyArgDisp s) := by
  simp only [emptyArgDisp, withMain]
  cases s.params.emptyArgPolicy with
  | ignore => rfl
  | draw => cases Config.drawnText s.draws <;> rfl

/-- No instruction has to do with the MAIN agent. -/
theorem exec_withMain (i : Instr) (s : State) :
    exec i (withMain pr mid seen s) = mapNext (withMain pr mid seen) (exec i s) := by
  have hreply := replyOk_withMain pr mid seen s
  cases i with
  | display p => exact congrArg (fun t => Host.Outcome.next (dispShow (textOperand p) t)) hreply
  | setact p =>
    cases p with
    | nil => rw [exec_setact_nil, exec_setact_nil, hreply, emptyArgAct_withMain]; rfl
    | cons b q => rw [exec_setact_cons, exec_setact_cons, hreply]; rfl
  | plate p =>
    cases p with
    | nil => rw [exec_plate_nil, exec_plate_nil, hreply, emptyArgAct_withMain]; rfl
    | cons b q => rw [exec_plate_cons, exec_plate_cons, hreply]; rfl
  | lotfull p =>
    cases p with
    | nil => rw [exec_lotfull_nil, exec_lotfull_nil, hreply, emptyArgDisp_withMain]; rfl
    | cons b q => rw [exec_lotfull_cons, exec_lotfull_cons, hreply]; rfl
  | invalidFrame id p rx computed =>
    exact congrArg Host.Outcome.next (send_withMain pr mid seen .rx errReply (raise (.checksum rx computed) s))
  | cardet p => exact congrArg Host.Outcome.next hreply
  | unknown00 p => exact congrArg Host.Outcome.next hreply
  | unknown06to07 low p => exact congrArg Host.Outcome.next hreply
  | unknown08to0F low p => exact congrArg Host.Outcome.next hreply
  | unknown10to1F low p => exact congrArg Host.Outcome.next hreply
  | unknown20to3F low p => exact congrArg Host.Outcome.next hreply
  | unknown40to7F low p => exact congrArg Host.Outcome.next hreply
  | unknown80toFF low p => exact congrArg Host.Outcome.next hreply

theorem completeFrame_withMain (d : Decoder) (s : State) :
    completeFrame d (withMain pr mid seen s) = mapNext (withMain pr mid seen) (completeFrame d s) := by
  unfold completeFrame
  split
  · rfl
  · exact exec_withMain pr mid seen _ (setDec (endSession d) s)

theorem rxByte_withMain (b : Byte) (s : State) :
    rxByte b (withMain pr mid seen s) = mapNext (withMain pr mid seen) (rxByte b s) := by
  have hdec : (withMain pr mid seen s).dec = s.dec := rfl
  have hparams : (withMain pr mid seen s).params = s.params := rfl
  unfold rxByte
  rw [hdec]
  split
  · unfold rxIdle
    split <;> rfl
  · unfold rxLength
    rw [hdec, hparams]
    split
    · rfl
    · split_ifs <;> rfl
  · unfold rxPayload
    rw [hdec, hparams]
    split
    · rfl
    · split
      · rfl
      · exact completeFrame_withMain pr mid seen _ s
      · rfl

end

/-- Settles O46: the byte is taken in the same state with other state of the MAIN agent. -/
theorem rxStepIgnoresPresenceState : Obligations.RxStepIgnoresPresenceState :=
  fun s b rest pr mid seen => rxByte_withMain pr mid seen b { s with inputs := rest }

/-- Having the step's outcome with the MAIN agent's state put back, a byte leaves that state as it was. -/
theorem rxByte_keeps_main {b : Byte} {s t : State} (h : rxByte b s = .next t) :
    t.pres = s.pres ∧ t.midTick = s.midTick ∧ t.lastNow = s.lastNow := by
  have hself : rxByte b s = mapNext (withMain s.pres s.midTick s.lastNow) (rxByte b s) :=
    rxByte_withMain s.pres s.midTick s.lastNow b s
  rw [h] at hself
  have ht := Host.Outcome.next.inj hself
  exact ⟨(congrArg State.pres ht :), (congrArg State.midTick ht :), (congrArg State.lastNow ht :)⟩

/-! ### A MAIN step and the decoder (R168) -/

theorem sendCarDetected_setDec (d : Decoder) (v : Bool) (s : State) :
    sendCarDetected v (setDec d s) = setDec d (sendCarDetected v s) := by
  simp only [sendCarDetected_eq_send, send, afterDraw, nextOutcome, setDec]
  cases s.answers <;> rfl

theorem finishTick_setDec (d : Decoder) (s : State) : finishTick (setDec d s) = setDec d (finishTick s) :=
  sendCarDetected_setDec d s.pres.debounced { s with midTick := false }

theorem tickBody_setDec (d : Decoder) (t : Nat) (raw : Bool) (s : State) :
    tickBody t raw (setDec d s) = setDec d (tickBody t raw s) := by
  have hsend := sendCarDetected_setDec d (tickPresence s.params t raw s.pres).debounced (tickWrites t raw s)
  unfold tickBody
  simp only [setDec_params, setDec_pres]
  split
  · rfl
  · exact congrArg (fun u : State => { u with midTick := true }) hsend
  · exact hsend

theorem tick_setDec (d : Decoder) (now : Nat) (raw : Bool) (s : State) :
    tick now raw (setDec d s) = mapNext (setDec d) (tick now raw s) := by
  have hclock : clockOk (setDec d s) (stamp s.params now) = clockOk s (stamp s.params now) := rfl
  unfold tick
  rw [setDec_params, hclock]
  split
  · exact congrArg Host.Outcome.next (tickBody_setDec d _ raw s)
  · rfl

/-- Settles O47: every move of the MAIN agent commutes with replacing the session. -/
theorem mainStepIgnoresDecoderState : Obligations.MainStepIgnoresDecoderState := by
  intro s d hnoByte hnoReset
  change step (setDec d s) = mapNext (setDec d) (step s)
  match hi : s.inputs with
  | [] =>
    rw [step_of_nil (s := setDec d s) hi, step_of_nil hi, setDec_midTick, finishTick_setDec]
    split <;> rfl
  | .rx b :: rest => exact absurd hi (hnoByte b rest)
  | .tick now raw :: rest =>
    rw [step_of_tick (s := setDec d s) hi, step_of_tick hi, setDec_midTick, finishTick_setDec]
    split
    · rfl
    · exact tick_setDec d now raw { s with inputs := rest }
  | .resume :: rest =>
    rw [step_of_resume (s := setDec d s) hi, step_of_resume hi, setDec_midTick]
    split
    · exact congrArg Host.Outcome.next (finishTick_setDec d { s with inputs := rest })
    · rfl
  | .reset :: rest => exact absurd hi (hnoReset rest)

/-! ### What an idle decoder leaves behind (R39 a) -/

/-- A byte that is stored has a place in the buffer. -/
theorem room_of_rxByte {b : Byte} {s t : State} (h : rxByte b s = .next t) (hd : s.dec.state ≠ .idle) :
    s.dec.buf.length < s.params.capacity := by
  obtain ⟨hidle, -⟩ | ⟨hidle, -⟩ | ⟨-, hroom, -⟩ | ⟨-, hroom, -⟩ | ⟨-, hroom, -⟩ | ⟨-, hroom, -⟩ | ⟨-, hroom, -⟩ :=
    rxByte_cases h
  · exact absurd hidle hd
  · exact absurd hidle hd
  all_goals exact hroom

/-- A byte reads of the session only what its decoder state allows. -/
theorem rxByte_sameSession {b : Byte} {s t : State} {e : Decoder} (hsame : SameSession s.dec e)
    (h : rxByte b s = .next t) :
    ∃ e', rxByte b (setDec e s) = .next (setDec e' t) ∧ SameSession t.dec e' := by
  obtain ⟨hstate, hbuf, hall⟩ := hsame
  cases hd : s.dec.state with
  | idle =>
    rw [rxByte_of_idle hd] at h
    rw [rxByte_of_idle (s := setDec e s) (hstate.symm.trans hd)]
    cases h
    split
    · exact ⟨{ e with state := .readingLength, buf := [b] }, rfl, rfl, fun _ => rfl, nofun⟩
    · exact ⟨e, rfl, hstate, hbuf, hall⟩
  | readingLength =>
    have hroom := room_of_rxByte h (by simp [hd])
    have hbuf' := hbuf hd
    have he := rxByte_of_readingLength (s := setDec e s) (hstate.symm.trans hd) (by simpa [← hbuf'] using hroom) b
    rw [rxByte_of_readingLength hd hroom] at h
    rw [setDec_params] at he
    split_ifs at h he with hover hzero <;> cases h
    · exact ⟨dropFrame e, he, rfl, nofun, nofun⟩
    · exact ⟨dropFrame e, he, rfl, nofun, nofun⟩
    · exact ⟨_, he, rfl, nofun, fun _ => by simp only [setDec_dec, acceptLength, hbuf']⟩
  | readingPayload =>
    obtain rfl := hall hd
    exact ⟨t.dec, h, rfl, fun _ => rfl, fun _ => rfl⟩

/-- Settles O22: a byte reads only what its state allows, reset overwrites the session, and no other step reads it. -/
theorem leftoverSessionIsNeverRead : Obligations.LeftoverSessionIsNeverRead := by
  intro s t e hsame hstep
  change ∃ e', step (setDec e s) = .next (setDec e' t) ∧ SameSession t.dec e'
  match hi : s.inputs with
  | .rx b :: rest =>
    rw [step_of_rx hi] at hstep
    rw [step_of_rx (s := setDec e s) hi]
    exact rxByte_sameSession (s := { s with inputs := rest }) hsame hstep
  | .reset :: rest =>
    rw [step_of_reset hi] at hstep
    cases hstep
    exact ⟨decoderReset, step_of_reset (s := setDec e s) hi, rfl, fun _ => rfl, fun _ => rfl⟩
  | [] | .tick _ _ :: _ | .resume :: _ =>
    have hdec := onlyBytesAndResetMoveTheDecoder s t hstep (by simp [hi]) (by simp [hi])
    have hmain := mainStepIgnoresDecoderState s e (by simp [hi]) (by simp [hi])
    rw [hstep] at hmain
    exact ⟨e, hmain, hdec ▸ hsame⟩

/-! ### Presence state and the link (R167) -/

/-- The MAIN agent's state after a step: presence state, pending `Send` and last timestamp. No outcome of the link has
a part in it. -/
def mainAfter (s : State) : Presence × Bool × Nat :=
  match s.inputs with
  | [] => (s.pres, false, s.lastNow)
  | .rx _ :: _ => (s.pres, s.midTick, s.lastNow)
  | .tick now raw :: _ =>
    if s.midTick then (s.pres, false, s.lastNow)
    else (tickPresence s.params (stamp s.params now) raw s.pres,
      changeFires s.params (stamp s.params now) raw s.pres && heartbeatFires s.params (stamp s.params now) raw s.pres,
      stamp s.params now)
  | .resume :: _ => (s.pres, false, s.lastNow)
  | .reset :: _ => (presenceReset s.params, false, stamp s.params s.params.tReset)

/-- The MAIN agent's state. -/
def mainOf (s : State) : Presence × Bool × Nat := (s.pres, s.midTick, s.lastNow)

theorem mainOf_sendCarDetected (v : Bool) (s : State) : mainOf (sendCarDetected v s) = mainOf s := by
  simp only [mainOf, sendCarDetected_eq_send, send_pres, send_midTick, send_lastNow]

theorem mainOf_finishTick (s : State) : mainOf (finishTick s) = (s.pres, false, s.lastNow) :=
  mainOf_sendCarDetected s.pres.debounced { s with midTick := false }

theorem and_eq_false_of_ne {a b : Bool} (h : a ≠ b) : (a && b) = false := by
  revert a b
  decide

theorem mainOf_tickBody (t : Nat) (raw : Bool) {s : State} (hmid : s.midTick = false) :
    mainOf (tickBody t raw s) =
      (tickPresence s.params t raw s.pres,
        changeFires s.params t raw s.pres && heartbeatFires s.params t raw s.pres, t) := by
  have hsent := mainOf_sendCarDetected (tickPresence s.params t raw s.pres).debounced (tickWrites t raw s)
  simp only [mainOf, tickWrites_pres, tickWrites_midTick, tickWrites_lastNow, Prod.mk.injEq] at hsent
  obtain ⟨hpres, hmidTick, hnow⟩ := hsent
  obtain ⟨hc, hh, hquiet⟩ | ⟨hc, hh, hboth⟩ | ⟨hne, hone⟩ := tickBody_cases t raw s
  · simp [mainOf, hquiet, hc, hmid]
  · simp [mainOf, hboth, hc, hh, hpres, hnow]
  · simp [mainOf, hone, hpres, hmidTick, hnow, and_eq_false_of_ne hne, hmid]

theorem mainOf_step {s t : State} (h : step s = .next t) : mainOf t = mainAfter s := by
  obtain ⟨b, rest, hi, hbyte⟩ | ⟨hi, -, rfl⟩ | ⟨hi, hmid, rfl⟩ | ⟨_, _, _, hi, hmid, rfl⟩ |
    ⟨_, _, rest, hi, hmid, -, rfl⟩ | ⟨rest, hi, -, rfl⟩ | ⟨rest, hi, hmid, rfl⟩ | ⟨rest, hi, rfl⟩ := step_cases h
  all_goals simp only [mainAfter, hi]
  · obtain ⟨hpres, hmid, hnow⟩ := rxByte_keeps_main hbyte
    simp only [mainOf, hpres, hmid, hnow]
  · exact mainOf_finishTick s
  · rw [mainOf, hmid]
  · rw [if_pos hmid]; exact mainOf_finishTick s
  · rw [if_neg (by simp [hmid])]; exact mainOf_tickBody _ _ hmid
  · exact mainOf_finishTick { s with inputs := rest }
  · rw [mainOf, hmid]
  · rfl

/-- Settles O40: the settled answers have no part in `mainAfter`. -/
theorem presenceIgnoresSendOutcome : Obligations.PresenceIgnoresSendOutcome := by
  intro s t u as bs ht hu
  have hsame : mainOf t = mainOf u := (mainOf_step ht).trans (mainOf_step hu).symm
  simpa only [mainOf, Prod.mk.injEq] using hsame

end Sys2Proof.Machine
end

section
/-! The presence monitor of 44_presence, one tick at a time: what a tick writes to each register (R162 to R164), when
the clock lets it happen (R44), and the one `Send` it makes (R163, R164). -/

namespace Sys2Proof.Machine

/-! ### The writes of a tick (R162 to R165) -/

/-- `last_transition_time` once a tick at `t` has captured `raw` (R162). -/
def transitionTime (t : Nat) (raw : Bool) (pr : Presence) : Nat :=
  if raw = pr.lastRaw then pr.lastTransitionTime else t

theorem capture_eq (t : Nat) (raw : Bool) (pr : Presence) :
    capture t raw pr = { pr with lastRaw := raw, lastTransitionTime := transitionTime t raw pr } := by
  unfold capture transitionTime
  by_cases h : raw = pr.lastRaw <;> simp [h]

theorem changeFires_eq (p : Params) (t : Nat) (raw : Bool) (pr : Presence) :
    changeFires p t raw pr = (raw != pr.debounced && decide (50 ≤ elapsed p t (transitionTime t raw pr))) := by
  rw [changeFires, capture_eq]
  rfl

theorem debounce_capture_eq (p : Params) (t : Nat) (raw : Bool) (pr : Presence) :
    debounce p t raw (capture t raw pr) =
      { pr with
        lastRaw := raw
        debounced := if changeFires p t raw pr then raw else pr.debounced
        lastTransitionTime := transitionTime t raw pr } := by
  rw [debounce, ← changeFires, capture_eq]
  split <;> rfl

theorem heartbeatFires_eq (p : Params) (t : Nat) (raw : Bool) (pr : Presence) :
    heartbeatFires p t raw pr = decide (1000 ≤ elapsed p t pr.lastPeriodicSendTime) := by
  rw [heartbeatFires, debounce_capture_eq]
  rfl

/-- The four registers after a tick. -/
theorem tickPresence_eq (p : Params) (t : Nat) (raw : Bool) (pr : Presence) :
    tickPresence p t raw pr =
      { lastRaw := raw
        debounced := if changeFires p t raw pr then raw else pr.debounced
        lastTransitionTime := transitionTime t raw pr
        lastPeriodicSendTime := if heartbeatFires p t raw pr then t else pr.lastPeriodicSendTime } := by
  rw [tickPresence, reload, ← heartbeatFires, debounce_capture_eq]
  split <;> rfl

/-! ### The clock (R41, R44) -/

theorem stamp_of_unbounded {p : Params} (hw : p.timeWidth = none) (now : Nat) : stamp p now = now := by
  simp only [stamp, hw]

theorem stamp_stamp (p : Params) (now : Nat) : stamp p (stamp p now) = stamp p now := by
  cases hw : p.timeWidth with
  | none => rw [stamp_of_unbounded hw]
  | some w => rw [stamp_of_width hw, stamp_of_width hw, Nat.mod_mod]

theorem clockOk_of_width {s : State} (hw : s.params.timeWidth ≠ none) (t : Nat) : clockOk s t = true := by
  rw [clockOk, Option.isSome_iff_ne_none.2 hw, Bool.true_or]

theorem clockOk_of_unbounded {s : State} (hw : s.params.timeWidth = none) (t : Nat) :
    clockOk s t = true ↔
      s.lastNow ≤ t ∧ s.pres.lastTransitionTime ≤ t ∧ s.pres.lastPeriodicSendTime ≤ t := by
  simp [clockOk, hw, and_assoc]

theorem tick_of_clockOk {s : State} {now : Nat} (h : clockOk s (stamp s.params now) = true) (raw : Bool) :
    tick now raw s = .next (tickBody (stamp s.params now) raw s) := by
  rw [tick, if_pos h]

theorem tick_of_not_clockOk {s : State} {now : Nat} (h : ¬ clockOk s (stamp s.params now) = true) (raw : Bool) :
    tick now raw s = .refused (.clockWentBack now) := by
  rw [tick, if_neg h]

/-- With no `Send` pending, the clock decides about a tick. -/
theorem step_tick_of_not_midTick {s : State} {now : Nat} {raw : Bool} {rest : List InputEvent}
    (hi : s.inputs = .tick now raw :: rest) (hmid : s.midTick = false) :
    step s = tick now raw { s with inputs := rest } := by
  rw [step_of_tick hi, if_neg (by simp [hmid])]

/-- Settles O42: only unbounded timestamps have an order to keep. -/
theorem backwardClockRefusedOnlyUnbounded : Obligations.BackwardClockRefusedOnlyUnbounded := by
  intro s now raw rest hmid
  rw [step_tick_of_not_midTick (s := { s with inputs := .tick now raw :: rest }) rfl hmid]
  refine ⟨fun hw hback => tick_of_not_clockOk (fun hok => ?unbounded) raw, fun hw => ⟨_, tick_of_clockOk ?width raw⟩⟩
  case unbounded =>
    obtain ⟨hnow, -, -⟩ := (clockOk_of_unbounded (by exact hw) _).1 hok
    rw [stamp_of_unbounded (by exact hw)] at hnow
    exact absurd hnow (Nat.not_le.2 hback)
  case width => exact clockOk_of_width (by exact hw) _

/-! ### The `Send` of a tick (R163 to R166) -/

/-- From `s` to `t` the MAIN agent sends the frame of `v`, and neither the block's state nor the script changes. -/
structure SendsFrame (v : Bool) (s t : State) : Prop where
  params : t.params = s.params
  dec : t.dec = s.dec
  pres : t.pres = s.pres
  lastNow : t.lastNow = s.lastNow
  inputs : t.inputs = s.inputs
  draw : OneDraw s t
  out : t.out = s.out ++ sendLabels .main (carDetectedFrame v) (nextOutcome s 5)

theorem sendsFrame_sendCarDetected (v : Bool) (s : State) : SendsFrame v s (sendCarDetected v s) := by
  rw [sendCarDetected_eq_send]
  have hlen := carDetectedFrame_length v
  constructor <;> simp [OneDraw, hlen]

/-- The second `Send` of a tick carries the debounced value of the first (R165). -/
theorem sendsFrame_finishTick (s : State) : SendsFrame s.pres.debounced s (finishTick s) := by
  obtain ⟨hparams, hdec, hpres, hnow, hinputs, hdraw, hout⟩ :=
    sendsFrame_sendCarDetected s.pres.debounced { s with midTick := false }
  exact ⟨hparams, hdec, hpres, hnow, hinputs, hdraw, hout⟩

theorem finishTick_midTick (s : State) : (finishTick s).midTick = false := by
  rw [finishTick, sendCarDetected_eq_send, send_midTick]

/-- The pending `Send` at the MAIN agent's next turn (R64). -/
theorem step_resume_of_midTick {s : State} (hmid : s.midTick = true) (more : List InputEvent) :
    ∃ v, step { s with inputs := .resume :: more } = .next v ∧ v.midTick = false ∧
      SendsFrame s.pres.debounced { s with inputs := more } v :=
  ⟨finishTick { s with inputs := more },
    (step_of_resume (s := { s with inputs := .resume :: more }) rfl).trans (congrArg Host.Outcome.next (if_pos hmid)),
    finishTick_midTick _, sendsFrame_finishTick { s with inputs := more }⟩

/-- Settles O39: a tick and the end of the input find the second `Send` still pending, a byte leaves it so. -/
theorem pendingHeartbeatIsSentBeforeTheNextTick : Obligations.PendingHeartbeatIsSentBeforeTheNextTick := by
  intro s now raw rest hmid frame
  refine ⟨⟨finishTick { s with inputs := .tick now raw :: rest }, ?tick, ?_⟩,
    ⟨finishTick { s with inputs := [] }, ?noInput, ?_⟩, fun b u hstep => ?byte⟩
  case tick => exact (step_of_tick rfl).trans (if_pos hmid)
  case noInput => exact (step_of_nil rfl).trans (congrArg Host.Outcome.next (if_pos hmid))
  case byte =>
    obtain ⟨-, hkeep, -⟩ := rxByte_keeps_main (s := { s with inputs := rest }) hstep
    exact hkeep.trans hmid
  all_goals
    obtain ⟨-, hdec, hpres, -, hinputs, hdraw, hout⟩ := sendsFrame_finishTick { s with inputs := _ }
    exact ⟨hinputs, finishTick_midTick _, hpres, hdec, hdraw, hout⟩

/-- A tick that fires makes its first `Send` after all its writes (R163, R165). -/
theorem sendsFrame_tickBody {t : Nat} {raw : Bool} {s : State}
    (h : (changeFires s.params t raw s.pres || heartbeatFires s.params t raw s.pres) = true) :
    SendsFrame (tickPresence s.params t raw s.pres).debounced (tickWrites t raw s) (tickBody t raw s) := by
  have hsent := sendsFrame_sendCarDetected (tickPresence s.params t raw s.pres).debounced (tickWrites t raw s)
  obtain ⟨hc, hh, -⟩ | ⟨-, -, hboth⟩ | ⟨-, hone⟩ := tickBody_cases t raw s
  · simp [hc, hh] at h
  · obtain ⟨hparams, hdec, hpres, hnow, hinputs, hdraw, hout⟩ := hsent
    rw [hboth]
    exact ⟨hparams, hdec, hpres, hnow, hinputs, hdraw, hout⟩
  · rw [hone]; exact hsent

theorem tickBody_of_neither {t : Nat} {raw : Bool} {s : State}
    (h : ¬ (changeFires s.params t raw s.pres || heartbeatFires s.params t raw s.pres) = true) :
    tickBody t raw s = tickWrites t raw s := by
  rw [Bool.or_eq_true, not_or, Bool.not_eq_true, Bool.not_eq_true] at h
  rw [tickBody, h.1, h.2]

theorem tickBody_inputs (t : Nat) (raw : Bool) (s : State) : (tickBody t raw s).inputs = s.inputs := by
  by_cases h : (changeFires s.params t raw s.pres || heartbeatFires s.params t raw s.pres) = true
  · exact (sendsFrame_tickBody h).inputs
  · rw [tickBody_of_neither h, tickWrites_inputs]

/-- Settles O38: `tickPresence` writes the registers, and each trigger is one `Send` of the debounced value. -/
theorem tickCapturesDebouncesAndSends : Obligations.TickCapturesDebouncesAndSends := by
  intro s now raw rest hmid hclock t transition change heartbeat debounced frame
  have hchange : changeFires s.params t raw s.pres = change := changeFires_eq ..
  have hheartbeat : heartbeatFires s.params t raw s.pres = heartbeat := heartbeatFires_eq ..
  have hdebounced : (tickPresence s.params t raw s.pres).debounced = debounced := by rw [tickPresence_eq, hchange]
  have hmain := mainOf_tickBody t raw (s := { s with inputs := rest }) hmid
  simp only [mainOf, Prod.mk.injEq, tickPresence_eq, hchange, hheartbeat] at hmain
  obtain ⟨hpres, hmidTick, hnow⟩ := hmain
  refine ⟨tickBody t raw { s with inputs := rest }, ?step, tickBody_params .., tickBody_dec .., hnow,
    tickBody_inputs .., hpres, hmidTick, ?send, fun hpending more => ?resume⟩
  case step =>
    rw [step_tick_of_not_midTick (s := { s with inputs := .tick now raw :: rest }) rfl hmid]
    exact tick_of_clockOk (s := { s with inputs := rest }) hclock raw
  case send =>
    split
    case isTrue hfires =>
      have hsent := sendsFrame_tickBody (t := t) (raw := raw) (s := { s with inputs := rest })
        (by rwa [hchange, hheartbeat])
      rw [hdebounced] at hsent
      exact ⟨hsent.draw, hsent.out⟩
    case isFalse hquiet =>
      rw [tickBody_of_neither (by rwa [hchange, hheartbeat])]
      exact ⟨rfl, rfl, rfl⟩
  case resume =>
    obtain ⟨v, hstep, hdone, hsent⟩ := step_resume_of_midTick hpending more
    rw [(congrArg Presence.debounced hpres :)] at hsent
    exact ⟨v, hstep, hsent.params, hsent.dec, hsent.pres, hsent.lastNow, hsent.inputs, hdone, hsent.draw, hsent.out⟩

end Sys2Proof.Machine
end

section
/-! The invariant of 10_state R39 and 60_exceptions R199: reset meets it, every step keeps it, and under it no step
stops but for a clock that goes back. -/

namespace Sys2Proof.Machine

/-! ### The decoder (R24 to R26, R39) -/

/-- An idle decoder with an empty buffer needs its register widths only. -/
theorem decoderInv_of_idle {cap : Nat} {d : Decoder} (hidle : d.state = .idle) (hbuf : d.buf = [])
    (hremaining : d.remaining ≤ 256) (hexpected : d.expectedLen ≤ 258) : DecoderInv cap d :=
  ⟨by simp [hbuf], hremaining, hexpected, by simp [hidle], by simp [hidle]⟩

theorem exec_keeps_dec {i : Instr} {s t : State} (h : exec i s = .next t) : t.dec = s.dec := by
  obtain ⟨u, hu, ⟨-, hdec, -⟩, -⟩ := exec_spec i s
  obtain rfl : u = t := Host.Outcome.next.inj (hu.symm.trans h)
  exact hdec

/-- The accepted length byte: the buffer is marker and length, and the count is what R127 still needs. -/
theorem decoderInv_acceptLength {cap : Nat} {d : Decoder} {len : Byte} (hbuf : d.buf = [startMarker]) (hzero : len ≠ 0)
    (hcap : len.toNat + 3 ≤ cap) : DecoderInv cap (acceptLength { d with buf := d.buf ++ [len] } len) := by
  have hlen := len.isLt
  refine ⟨?capacity, ?remaining, ?expected, nofun, fun _ => ⟨?marker, ?two, ?nonzero, ?len, hcap, ?sum, ?pos, ?crc⟩⟩
  all_goals simp only [acceptLength, hbuf, List.cons_append, List.nil_append, List.length_cons, List.length_nil]
  case marker => rfl
  case nonzero => exact hzero
  case len => rfl
  case crc => rfl
  all_goals omega

/-- A counted byte moves one from what is to come to what is buffered. -/
theorem decoderInv_counted {cap : Nat} {d : Decoder} (hinv : DecoderInv cap d) (hreading : d.state = .readingPayload)
    (hmore : 2 ≤ d.remaining) (b : Byte) :
    DecoderInv cap { d with
      buf := d.buf ++ [b], remaining := d.remaining - 1, crcAcc := crc8Step d.crcAcc b } := by
  obtain ⟨-, hremaining, hexpected, -, hpayload⟩ := hinv
  obtain ⟨hmarker, htwo, hzero, hlen, hcap, hsum, hpos, hcrc⟩ := hpayload hreading
  have hget (i : Nat) (hi : i < d.buf.length) : (d.buf ++ [b]).getD i 0 = d.buf.getD i 0 :=
    List.getD_append _ _ _ _ hi
  refine ⟨?capacity, ?remaining, hexpected, by simp [hreading], fun _ => ⟨?marker, ?two, ?nonzero, ?len, hcap, ?sum,
    ?pos, ?crc⟩⟩
  case marker => rw [hget 0 (by omega), hmarker]
  case nonzero => rwa [hget 1 (by omega)]
  case len => rwa [hget 1 (by omega)]
  case crc => rw [hcrc, ← crc8_snoc, List.drop_append_of_le_length (by omega)]
  all_goals simp only [List.length_append, List.length_singleton]; omega

theorem rxByte_keeps_decoderInv {b : Byte} {s t : State} (hinv : DecoderInv s.params.capacity s.dec)
    (h : rxByte b s = .next t) : DecoderInv s.params.capacity t.dec := by
  have hcap := four_le_capacity s.params
  have ⟨_, hremaining, hexpected, hlength, _⟩ := hinv
  obtain ⟨-, rfl, rfl⟩ | ⟨-, -, rfl⟩ | ⟨-, -, -, rfl⟩ | ⟨-, -, -, -, rfl⟩ | ⟨hd, -, hfits, hzero, rfl⟩ |
    ⟨hd, -, hmore, rfl⟩ | ⟨-, -, -, f, -, hexec⟩ := rxByte_cases h
  · exact ⟨by simp; omega, hremaining, hexpected, fun _ => rfl, nofun⟩
  · exact hinv
  · exact decoderInv_of_idle rfl rfl hremaining hexpected
  · exact decoderInv_of_idle rfl rfl hremaining hexpected
  · exact decoderInv_acceptLength (hlength hd) hzero hfits
  · exact decoderInv_counted hinv hd hmore b
  · rw [exec_keeps_dec hexec]
    exact decoderInv_of_idle rfl rfl (Nat.zero_le _) (Nat.zero_le _)

theorem decoderInv_reset (cap : Nat) : DecoderInv cap decoderReset :=
  decoderInv_of_idle rfl rfl (Nat.zero_le _) (Nat.zero_le _)

theorem step_keeps_decoderInv {s t : State} (hinv : DecoderInv s.params.capacity s.dec) (h : step s = .next t) :
    DecoderInv s.params.capacity t.dec := by
  match hi : s.inputs with
  | .rx b :: rest =>
    rw [step_of_rx hi] at h
    exact rxByte_keeps_decoderInv (s := { s with inputs := rest }) hinv h
  | .reset :: rest =>
    rw [step_of_reset hi] at h
    cases h
    exact decoderInv_reset _
  | [] | .tick _ _ :: _ | .resume :: _ =>
    rwa [onlyBytesAndResetMoveTheDecoder s t h (by simp [hi]) (by simp [hi])]

/-! ### The time registers (R35, R36, R44) -/

/-- `TimesInv` of the registers it is about. -/
def TimesOk (p : Params) (pr : Presence) (seen : Nat) : Prop :=
  stamp p seen = seen ∧ stamp p pr.lastTransitionTime = pr.lastTransitionTime ∧
  stamp p pr.lastPeriodicSendTime = pr.lastPeriodicSendTime ∧
  (p.timeWidth = none → pr.lastTransitionTime ≤ seen ∧ pr.lastPeriodicSendTime ≤ seen)

theorem timesInv_iff (s : State) : TimesInv s ↔ TimesOk s.params s.pres s.lastNow := Iff.rfl

theorem timesOk_reset (p : Params) : TimesOk p (presenceReset p) (stamp p p.tReset) :=
  ⟨stamp_stamp .., stamp_stamp .., stamp_stamp .., fun _ => ⟨le_rfl, le_rfl⟩⟩

/-- A tick writes its own time or nothing to each register. -/
theorem timesOk_tick {p : Params} {pr : Presence} {seen t : Nat} (h : TimesOk p pr seen) (ht : stamp p t = t)
    (hle : p.timeWidth = none → seen ≤ t) (raw : Bool) : TimesOk p (tickPresence p t raw pr) t := by
  obtain ⟨-, htransition, hsend, horder⟩ := h
  rw [tickPresence_eq, transitionTime]
  refine ⟨ht, ?_, ?_, fun hw => ⟨?_, ?_⟩⟩ <;> dsimp only
  · split
    · exact htransition
    · exact ht
  · split
    · exact ht
    · exact hsend
  · split
    · exact (horder hw).1.trans (hle hw)
    · exact le_rfl
  · split
    · exact le_rfl
    · exact (horder hw).2.trans (hle hw)

theorem step_keeps_times {s t : State} (hinv : TimesOk s.params s.pres s.lastNow) (h : step s = .next t) :
    TimesOk s.params t.pres t.lastNow := by
  have hmain := mainOf_step h
  simp only [mainOf, mainAfter] at hmain
  match hi : s.inputs with
  | [] | .rx _ :: _ | .resume :: _ =>
    simp only [hi, Prod.mk.injEq] at hmain
    obtain ⟨hpres, -, hnow⟩ := hmain
    rwa [hpres, hnow]
  | .reset :: _ =>
    simp only [hi, Prod.mk.injEq] at hmain
    obtain ⟨hpres, -, hnow⟩ := hmain
    rw [hpres, hnow]
    exact timesOk_reset s.params
  | .tick now raw :: rest =>
    simp only [hi] at hmain
    split at hmain
    case isTrue =>
      simp only [Prod.mk.injEq] at hmain
      obtain ⟨hpres, -, hnow⟩ := hmain
      rwa [hpres, hnow]
    case isFalse hmid =>
      simp only [Prod.mk.injEq] at hmain
      obtain ⟨hpres, -, hnow⟩ := hmain
      rw [hpres, hnow]
      refine timesOk_tick hinv (stamp_stamp ..) (fun hw => ?_) raw
      rw [step_tick_of_not_midTick hi (by simpa using hmid)] at h
      by_contra hback
      rw [tick_of_not_clockOk (s := { s with inputs := rest })
        (fun hok => hback ((clockOk_of_unbounded (by exact hw) _).1 hok).1)] at h
      cases h

/-! ### The labels (R42, R43, R45, R56, R185) -/

theorem sendLabels_all_legal {p : Params} {a : Agent} {m : Bytes} {o : SendOutcome}
    (htx : labelLegal p (.tx a m o) = true) (ho : outcomeLegal m.length o = true) :
    (sendLabels a m o).all (labelLegal p) = true := by
  cases o with
  | sent => simp [sendLabels, htx]
  | failed k =>
    simp only [sendLabels, List.all_cons, List.all_nil, htx, Bool.and_true, Bool.true_and]
    exact ho

theorem MainLabels.all_legal {ls : List Label} (h : MainLabels ls) (p : Params) : ls.all (labelLegal p) = true := by
  cases h with
  | quiet => rfl
  | sent v ho =>
    refine sendLabels_all_legal ?_ (by rwa [carDetectedFrame_length])
    cases v <;> simpa [labelLegal, carDetectedFrame] using ho

/-- The text of a `DISPLAY` fits one display write because its frame fits the buffers. -/
theorem ActionLabels.all_legal {p : Params} {payload : Bytes} {w : List Label} (h : ActionLabels p payload w)
    (hfits : payload.length ≤ payloadLimit p.capacity) : w.all (labelLegal p) = true := by
  obtain rfl | ⟨a, ha, rfl⟩ | ⟨x, hx | rfl, rfl⟩ := h
  · rfl
  · simpa [labelLegal] using ha
  · simpa [labelLegal] using hx
  · simpa [labelLegal] using hfits

theorem RxLabels.all_legal {p : Params} {d : Decoder} {b : Byte} {ls : List Label} (h : RxLabels p d b ls)
    (hinv : DecoderInv p.capacity d) : ls.all (labelLegal p) = true := by
  cases h with
  | quiet => rfl
  | overflow _ hb => simpa [labelLegal] using hb
  | badLength _ hb => simpa [labelLegal] using hb
  | invalid _ hne ho =>
    have hreply := sendLabels_all_legal (p := p) (a := .rx) (m := errReply) ho ho
    simp [List.all_cons, hreply, labelLegal, hne]
  | valid hd hf ho hw =>
    obtain ⟨id, q, hawaits⟩ := awaitsLast_of_inv hinv hd.1 hd.2
    have hfull : (filled d b).buf = frameBytes id q b := by rw [frameBytes_eq_snoc, ← hawaits.buf]
    rw [splitFrame_of_frameBytes hfull (payloadFits_iff.1 hawaits.fits).2] at hf
    cases hf
    rw [List.all_append, hw.all_legal ((payloadFits_iff_le_payloadLimit (four_le_capacity p) q).1 hawaits.fits),
      Bool.and_true]
    exact sendLabels_all_legal ho ho

theorem step_keeps_legal {s t : State} (hinv : DecoderInv s.params.capacity s.dec)
    (hlegal : s.out.all (labelLegal s.params) = true) (h : step s = .next t) :
    t.out.all (labelLegal s.params) = true := by
  obtain ⟨ls, hout, ⟨b, rest, -, hls⟩ | ⟨-, hls⟩⟩ := step_labels h
  · rw [hout, List.all_append, hlegal, hls.all_legal hinv, Bool.and_self]
  · rw [hout, List.all_append, hlegal, hls.all_legal, Bool.and_self]

/-! ### The invariant (R39) -/

/-- Settles O51: at reset the decoder is idle, every time register holds the one time of reset, and there is no
label. -/
theorem resetMeetsInvariant : Obligations.ResetMeetsInvariant :=
  ⟨fun p => ⟨decoderInv_reset _, timesOk_reset p, rfl⟩, rfl⟩

/-- Settles O52: each of the three parts is kept, and the parameters they are read with stay. -/
theorem stepKeepsInvariant : Obligations.StepKeepsInvariant := by
  intro s t ⟨hdec, htimes, hlegal⟩ hstep
  have hparams := parametersNeverChange s t hstep
  refine ⟨?dec, (timesInv_iff t).2 ?times, ?legal⟩ <;> rw [hparams]
  case dec => exact step_keeps_decoderInv hdec hstep
  case times => exact step_keeps_times htimes hstep
  case legal => exact step_keeps_legal hdec hlegal hstep

/-! ### How a step may end (R186, R199) -/

/-- Under the invariant every byte has its place in the buffer and every completed frame its fields. -/
theorem rxByte_goes_on {s : State} (hinv : DecoderInv s.params.capacity s.dec) (b : Byte) :
    ∃ t, rxByte b s = .next t := by
  have ⟨_, _, _, hlength, hpayload⟩ := hinv
  cases hd : s.dec.state with
  | idle => exact ⟨_, rxByte_of_idle hd b⟩
  | readingLength =>
    have hcap := four_le_capacity s.params
    exact ⟨_, rxByte_of_readingLength hd (by rw [hlength hd, List.length_singleton]; omega) b⟩
  | readingPayload =>
    by_cases hlast : s.dec.remaining = 1
    · obtain ⟨id, p, hawaits⟩ := awaitsLast_of_inv hinv hd hlast
      obtain ⟨t, ht, -⟩ := exec_spec (frameInstr (receivedFrame id p b)) (setDec (endSession s.dec) s)
      exact ⟨t, (rxByte_of_last hawaits b).trans ht⟩
    · obtain ⟨-, -, -, -, hcap, hsum, hpos, -⟩ := hpayload hd
      exact ⟨_, rxByte_of_counted hd (by omega) (by omega) b⟩

/-- Under the decoder invariant nothing but the clock stops a step. -/
theorem step_goes_on_or_clock_went_back {s : State} (hinv : DecoderInv s.params.capacity s.dec) :
    (∃ t, step s = .next t) ∨
    (∃ now raw rest, s.inputs = .tick now raw :: rest ∧ ¬ clockOk s (stamp s.params now) = true ∧
      step s = .refused (.clockWentBack now)) := by
  match hi : s.inputs with
  | [] => exact .inl ⟨_, step_of_nil hi⟩
  | .rx b :: rest =>
    rw [step_of_rx hi]
    exact .inl (rxByte_goes_on (s := { s with inputs := rest }) hinv b)
  | .resume :: rest => exact .inl ⟨_, step_of_resume hi⟩
  | .reset :: rest => exact .inl ⟨_, step_of_reset hi⟩
  | .tick now raw :: rest =>
    rw [step_of_tick hi]
    by_cases hmid : s.midTick = true
    · exact .inl ⟨_, if_pos hmid⟩
    · rw [if_neg hmid]
      by_cases hclock : clockOk s (stamp s.params now) = true
      · exact .inl ⟨_, tick_of_clockOk (s := { s with inputs := rest }) hclock raw⟩
      · exact .inr ⟨now, raw, rest, rfl, hclock, tick_of_not_clockOk (s := { s with inputs := rest }) hclock raw⟩

/-- Settles O53: the one stop left is a refusal. -/
theorem noModelFaultUnderInvariant : Obligations.NoModelFaultUnderInvariant := by
  intro s hinv
  obtain ⟨t, ht⟩ | ⟨now, raw, rest, -, -, hrefused⟩ := step_goes_on_or_clock_went_back hinv
  · rw [ht, isFault]
  · rw [hrefused, isFault]

/-- Settles O54: no register is later than the last tick, so a refused tick is earlier than that. -/
theorem everyStepGoesOnUnlessTheClockGoesBack : Obligations.EveryStepGoesOnUnlessTheClockGoesBack := by
  rintro s ⟨hdec, ⟨-, -, -, horder⟩, -⟩
  refine (step_goes_on_or_clock_went_back hdec).imp_right ?_
  rintro ⟨now, raw, rest, hi, hclock, hrefused⟩
  have hw : s.params.timeWidth = none := by
    by_contra hw
    exact hclock (clockOk_of_width hw _)
  obtain ⟨htransition, hsend⟩ := horder hw
  rw [clockOk_of_unbounded hw, stamp_of_unbounded hw] at hclock
  exact ⟨now, raw, rest, hi, hw, by omega, hrefused⟩

end Sys2Proof.Machine
end

section
/-! Debounce and heartbeat over a sequence of ticks, of 44_presence (R169, R170). -/

namespace Sys2Proof.Machine

/-! ### The time between two samples of the clock (R161) -/

theorem elapsed_stamp_stamp_of_width {p : Params} {w : Nat} (hw : p.timeWidth = some w) {t0 t : Nat} (h : t0 ≤ t) :
    elapsed p (stamp p t) (stamp p t0) = (t - t0) % 2 ^ w := by
  have helapsed := elapsed_stamp_of_width hw t (stamp p t0)
  rw [stamp_of_width hw t0] at helapsed ⊢
  push_cast at helapsed
  rw [Int.sub_emod_emod, ← Nat.cast_sub h] at helapsed
  exact_mod_cast helapsed

/-- Sampling the clock never makes a stretch of time longer. -/
theorem elapsed_stamp_le (p : Params) {t0 t : Nat} (h : t0 ≤ t) : elapsed p (stamp p t) (stamp p t0) ≤ t - t0 := by
  cases hw : p.timeWidth with
  | none => rw [elapsed_of_unbounded hw, stamp_of_unbounded hw, stamp_of_unbounded hw]
  | some w => rw [elapsed_stamp_stamp_of_width hw h]; exact Nat.mod_le _ _

/-- Within one wrap of the clock sampling loses nothing. -/
theorem elapsed_stamp_of_within {p : Params} {t0 t : Nat} (h : t0 ≤ t)
    (hwrap : ∀ w, p.timeWidth = some w → t < t0 + 2 ^ w) : elapsed p (stamp p t) (stamp p t0) = t - t0 := by
  cases hw : p.timeWidth with
  | none => rw [elapsed_of_unbounded hw, stamp_of_unbounded hw, stamp_of_unbounded hw]
  | some w =>
    have := hwrap w hw
    rw [elapsed_stamp_stamp_of_width hw h, Nat.mod_eq_of_lt (by omega)]

/-! ### Sequences of ticks (R163) -/

theorem changeCount_sampled_cons (p : Params) (pr : Presence) (t : Nat) (raw : Bool) (ts : List (Nat × Bool)) :
    changeCount p pr (sampled p ((t, raw) :: ts)) =
      (changeFires p (stamp p t) raw pr).toNat +
        changeCount p (tickPresence p (stamp p t) raw pr) (sampled p ts) := rfl

theorem presenceAfter_sampled_cons (p : Params) (pr : Presence) (t : Nat) (raw : Bool) (ts : List (Nat × Bool)) :
    presenceAfter p pr (sampled p ((t, raw) :: ts)) =
      presenceAfter p (tickPresence p (stamp p t) raw pr) (sampled p ts) := rfl

theorem tickPresence_lastRaw (p : Params) (t : Nat) (raw : Bool) (pr : Presence) :
    (tickPresence p t raw pr).lastRaw = raw := by
  rw [tickPresence_eq]

theorem tickPresence_debounced (p : Params) (t : Nat) (raw : Bool) (pr : Presence) :
    (tickPresence p t raw pr).debounced = if changeFires p t raw pr then raw else pr.debounced := by
  rw [tickPresence_eq]

theorem tickPresence_lastTransitionTime (p : Params) (t : Nat) (raw : Bool) (pr : Presence) :
    (tickPresence p t raw pr).lastTransitionTime = transitionTime t raw pr := by
  rw [tickPresence_eq]

theorem tickPresence_lastPeriodicSendTime (p : Params) (t : Nat) (raw : Bool) (pr : Presence) :
    (tickPresence p t raw pr).lastPeriodicSendTime =
      if heartbeatFires p t raw pr then t else pr.lastPeriodicSendTime := by
  rw [tickPresence_eq]

/-- A reading of the debounced value is no change. -/
theorem changeFires_debounced (p : Params) (t : Nat) (pr : Presence) : changeFires p t pr.debounced pr = false := by
  rw [changeFires_eq, bne_self_eq_false, Bool.false_and]

/-- A reading becomes a change only once it has been seen for the debounce interval. -/
theorem changeFires_of_recent {p : Params} {t : Nat} {raw : Bool} {pr : Presence}
    (h : elapsed p t (transitionTime t raw pr) < 50) : changeFires p t raw pr = false := by
  rw [changeFires_eq, decide_eq_false (by omega), Bool.and_false]

/-! ### Fast toggling (R169) -/

/-- Every stretch of consecutive ticks that read the opposite of `d` spans less than the debounce interval. -/
def StretchesShort (d : Bool) (ticks : List (Nat × Bool)) : Prop :=
  ∀ before stretch after, ticks = before ++ stretch ++ after → (∀ x ∈ stretch, x.2 ≠ d) →
    ∀ x ∈ stretch, ∀ y ∈ stretch, y.1 < x.1 + 50

/-- The ticks up to the next one that reads `d` lie in the debounce interval from `t0` on. -/
def StretchFrom (d : Bool) (t0 : Nat) (ticks : List (Nat × Bool)) : Prop :=
  ∀ stretch after, ticks = stretch ++ after → (∀ x ∈ stretch, x.2 ≠ d) → ∀ y ∈ stretch, t0 ≤ y.1 ∧ y.1 < t0 + 50

theorem StretchesShort.tail {d : Bool} {x : Nat × Bool} {ticks : List (Nat × Bool)}
    (h : StretchesShort d (x :: ticks)) : StretchesShort d ticks := by
  rintro before stretch after rfl
  exact h (x :: before) stretch after rfl

theorem StretchFrom.head {d : Bool} {t0 : Nat} {x : Nat × Bool} {ticks : List (Nat × Bool)}
    (h : StretchFrom d t0 (x :: ticks)) (hx : x.2 ≠ d) : t0 ≤ x.1 ∧ x.1 < t0 + 50 :=
  h [x] ticks rfl (by simpa using hx) x (List.mem_singleton_self x)

theorem StretchFrom.tail {d : Bool} {t0 : Nat} {x : Nat × Bool} {ticks : List (Nat × Bool)}
    (h : StretchFrom d t0 (x :: ticks)) (hx : x.2 ≠ d) : StretchFrom d t0 ticks := by
  rintro stretch after rfl hstretch y hy
  exact h (x :: stretch) after rfl (List.forall_mem_cons.2 ⟨hx, hstretch⟩) y (List.mem_cons_of_mem x hy)

/-- A tick that reads the opposite value opens a stretch from its own time on. -/
theorem StretchesShort.stretchFrom {d : Bool} {x : Nat × Bool} {ticks : List (Nat × Bool)}
    (h : StretchesShort d (x :: ticks)) (hsorted : (x :: ticks).Pairwise (fun x y => x.1 ≤ y.1)) (hx : x.2 ≠ d) :
    StretchFrom d x.1 (x :: ticks) := by
  intro stretch after hsplit hstretch y hy
  cases stretch with
  | nil => simp at hy
  | cons z stretch =>
    obtain rfl : x = z := (List.cons.inj hsplit).1
    refine ⟨?later, h [] (x :: stretch) after hsplit hstretch x List.mem_cons_self y hy⟩
    rcases List.mem_cons.1 hy with rfl | hmem
    · exact le_rfl
    · refine List.rel_of_pairwise_cons hsorted ?_
      rw [(List.cons.inj hsplit).2]
      exact List.mem_append_left _ hmem

/-- While the last reading is not the debounced value, it was first seen at a clock value from which the present stretch
is short. -/
def PendingShort (p : Params) (pr : Presence) (ticks : List (Nat × Bool)) : Prop :=
  pr.lastRaw ≠ pr.debounced → ∃ t0, pr.lastTransitionTime = stamp p t0 ∧ StretchFrom pr.debounced t0 ticks

/-- A tick captures a new transition at its own time, or goes on with the stretch it is in. -/
theorem PendingShort.captured {p : Params} {pr : Presence} {t : Nat} {raw : Bool} {ticks : List (Nat × Bool)}
    (h : PendingShort p pr ((t, raw) :: ticks)) (hshort : StretchesShort pr.debounced ((t, raw) :: ticks))
    (hsorted : ((t, raw) :: ticks).Pairwise (fun x y => x.1 ≤ y.1)) (hraw : raw ≠ pr.debounced) :
    ∃ t0, transitionTime (stamp p t) raw pr = stamp p t0 ∧ StretchFrom pr.debounced t0 ((t, raw) :: ticks) := by
  unfold transitionTime
  split
  case isTrue hsame => exact h (hsame ▸ hraw)
  case isFalse => exact ⟨t, rfl, hshort.stretchFrom hsorted hraw⟩

theorem PendingShort.changeFires_eq_false {p : Params} {pr : Presence} {t : Nat} {raw : Bool}
    {ticks : List (Nat × Bool)} (h : PendingShort p pr ((t, raw) :: ticks))
    (hshort : StretchesShort pr.debounced ((t, raw) :: ticks))
    (hsorted : ((t, raw) :: ticks).Pairwise (fun x y => x.1 ≤ y.1)) : changeFires p (stamp p t) raw pr = false := by
  by_cases hraw : raw = pr.debounced
  · rw [hraw, changeFires_debounced]
  · obtain ⟨t0, hcaptured, hfrom⟩ := h.captured hshort hsorted hraw
    obtain ⟨hle, hlt⟩ : t0 ≤ t ∧ t < t0 + 50 := hfrom.head hraw
    have helapsed := elapsed_stamp_le p hle
    exact changeFires_of_recent (by rw [hcaptured]; omega)

theorem no_change_of_stretchesShort {p : Params} {pr : Presence} {ticks : List (Nat × Bool)}
    (h : PendingShort p pr ticks) (hshort : StretchesShort pr.debounced ticks)
    (hsorted : ticks.Pairwise (fun x y => x.1 ≤ y.1)) :
    changeCount p pr (sampled p ticks) = 0 ∧ (presenceAfter p pr (sampled p ticks)).debounced = pr.debounced := by
  induction ticks generalizing pr with
  | nil => exact ⟨rfl, rfl⟩
  | cons x ticks ih =>
    obtain ⟨t, raw⟩ := x
    have hquiet := h.changeFires_eq_false hshort hsorted
    have hkeep : (tickPresence p (stamp p t) raw pr).debounced = pr.debounced := by
      rw [tickPresence_debounced, hquiet, if_neg Bool.false_ne_true]
    have hnext : PendingShort p (tickPresence p (stamp p t) raw pr) ticks := by
      rw [PendingShort, hkeep, tickPresence_lastRaw, tickPresence_lastTransitionTime]
      intro hraw
      obtain ⟨t0, hcaptured, hfrom⟩ := h.captured hshort hsorted hraw
      exact ⟨t0, hcaptured, hfrom.tail hraw⟩
    obtain ⟨hcount, hafter⟩ := ih hnext (hkeep ▸ hshort.tail) hsorted.of_cons
    rw [changeCount_sampled_cons, presenceAfter_sampled_cons, hquiet, hcount, hafter]
    exact ⟨rfl, hkeep⟩

/-- Settles O43: no stretch ever lasts until its reading is debounced. -/
theorem fastTogglingNeverReports : Obligations.FastTogglingNeverReports :=
  fun _ _ _ hsettled hsorted hshort => no_change_of_stretchesShort (fun h => absurd hsettled h) hshort hsorted

/-! ### A transition that holds (R169) -/

/-- Once the held value is the debounced one, it is reported no more. -/
theorem changeCount_of_debounced {p : Params} {pr : Presence} {v : Bool} (h : pr.debounced = v) (times : List Nat) :
    changeCount p pr (sampled p (times.map fun t => (t, v))) = 0 := by
  induction times generalizing pr with
  | nil => rfl
  | cons t times ih =>
    have hquiet : changeFires p (stamp p t) v pr = false := h ▸ changeFires_debounced ..
    have hkeep : (tickPresence p (stamp p t) v pr).debounced = v := by
      rw [tickPresence_debounced, hquiet, if_neg Bool.false_ne_true, h]
    rw [List.map_cons, changeCount_sampled_cons, hquiet, ih hkeep]
    rfl

/-- A value seen first at `t1` and held is reported at the first tick at least 50 time-units later. -/
theorem changeCount_of_held {p : Params} {pr : Presence} {t1 : Nat} {v : Bool} {times : List Nat}
    (hraw : pr.lastRaw = v) (hv : v ≠ pr.debounced) (hseen : pr.lastTransitionTime = stamp p t1) (hafter : ∀ t ∈ times, t1 ≤ t)
    (hwrap : ∀ w, p.timeWidth = some w → ∀ t ∈ times, t < t1 + 2 ^ w) :
    changeCount p pr (sampled p (times.map fun t => (t, v))) = if times.any (fun t => t1 + 50 ≤ t) then 1 else 0 := by
  induction times generalizing pr with
  | nil => rfl
  | cons t times ih =>
    rw [List.forall_mem_cons] at hafter
    have htransition : transitionTime (stamp p t) v pr = stamp p t1 := by rw [transitionTime, if_pos hraw.symm, hseen]
    have helapsed := elapsed_stamp_of_within hafter.1 fun w hw => hwrap w hw t List.mem_cons_self
    have hfires : changeFires p (stamp p t) v pr = decide (t1 + 50 ≤ t) := by
      rw [changeFires_eq, htransition, helapsed, bne_iff_ne.2 hv, Bool.true_and, decide_eq_decide]
      omega
    rw [List.map_cons, changeCount_sampled_cons, List.any_cons, hfires]
    by_cases hdue : t1 + 50 ≤ t
    · have hdone : (tickPresence p (stamp p t) v pr).debounced = v := by
        rw [tickPresence_debounced, hfires, if_pos (by simpa using hdue)]
      rw [changeCount_of_debounced hdone]
      simp [hdue]
    · have hkeep : (tickPresence p (stamp p t) v pr).debounced = pr.debounced := by
        rw [tickPresence_debounced, hfires, if_neg (by simpa using hdue)]
      rw [ih (tickPresence_lastRaw ..) (hkeep ▸ hv) ((tickPresence_lastTransitionTime ..).trans htransition) hafter.2
        fun w hw t ht => hwrap w hw t (List.mem_cons_of_mem _ ht)]
      simp [hdue]

/-- Settles O44: the first tick captures the transition, the others hold it. -/
theorem stableTransitionReportsExactlyOnce : Obligations.StableTransitionReportsExactlyOnce := by
  intro p pr t1 v times hsettled hv hsorted hwrap
  have hnew : transitionTime (stamp p t1) v pr = stamp p t1 := by rw [transitionTime, if_neg (hsettled ▸ hv)]
  have helapsed := elapsed_stamp_le p (le_refl t1)
  have hquiet : changeFires p (stamp p t1) v pr = false := changeFires_of_recent (by rw [hnew]; omega)
  have hkeep : (tickPresence p (stamp p t1) v pr).debounced = pr.debounced := by
    rw [tickPresence_debounced, hquiet, if_neg Bool.false_ne_true]
  rw [changeCount_sampled_cons, hquiet, changeCount_of_held (tickPresence_lastRaw ..) (hkeep ▸ hv)
    ((tickPresence_lastTransitionTime ..).trans hnew) (List.pairwise_cons.1 hsorted).1 hwrap]
  exact Nat.zero_add _

/-! ### Heartbeats (R170) -/

theorem heartbeatFires_of_unbounded {p : Params} (hw : p.timeWidth = none) (t : Nat) (raw : Bool) (pr : Presence) :
    heartbeatFires p t raw pr = true ↔ 1000 ≤ t - pr.lastPeriodicSendTime := by
  rw [heartbeatFires_eq, elapsed_of_unbounded hw, decide_eq_true_eq]

/-- Settles O45: at the tick before, less than 1000 time-units had passed, or the timer was reloaded. -/
theorem heartbeatSpacing : Obligations.HeartbeatSpacing := by
  intro p pr u t period rawU rawT hw hlast hut hperiod after hfires
  refine ⟨(heartbeatFires_of_unbounded hw t rawT after).1 hfires, ?spacing, ?reload⟩
  case reload => rw [tickPresence_lastPeriodicSendTime, if_pos hfires]
  case spacing =>
    rw [show after.lastPeriodicSendTime = _ from tickPresence_lastPeriodicSendTime p u rawU pr]
    split
    case isTrue => omega
    case isFalse hearly =>
      rw [heartbeatFires_of_unbounded hw] at hearly
      omega

end Sys2Proof.Machine
end

section
/-! Reset and the end of a run for the MAIN agent (R200, R202, R207), the codes of 10_state and 60_exceptions (R23,
R180), and the `LotFull` texts (R13, R45). -/

namespace Sys2Proof.Machine

/-! ### Reset and the parked block (R200 to R203, R207) -/

/-- Settles O49: power-on and the reset event take the presence state from the same parameters. -/
theorem resetLeavesPresenceAtItsParameters : Obligations.ResetLeavesPresenceAtItsParameters := by
  intro s rest pr
  have hpr : presenceReset s.params = pr := by rw [presenceReset]
  refine ⟨hpr, rfl, rfl, _, step_reset s rest, ?_⟩
  rw [powerOn_pres, powerOn_midTick, powerOn_params, powerOn_inputs, powerOn_out, powerOn_answers, powerOn_draws]
  exact ⟨hpr, rfl, rfl, rfl, rfl, rfl, rfl⟩

/-- Settles O50: with no move to come, only a pending `Send` would be a step. -/
theorem noInputLeavesTheBlockParked : Obligations.NoInputLeavesTheBlockParked :=
  fun s hmid => (step_of_nil (s := { s with inputs := [] }) rfl).trans
    (congrArg Host.Outcome.next (if_neg (by simp [hmid])))

/-! ### Codes (R23, R180) -/

theorem decStateOfCode_decStateCode (d : DecState) : decStateOfCode (decStateCode d) = some d := by
  cases d <;> rfl

/-- Settles O55: three of the four codes are taken. -/
theorem decoderStateCodes : Obligations.DecoderStateCodes :=
  ⟨rfl, rfl, rfl, rfl, decStateOfCode_decStateCode⟩

/-- Settles O56: the code does not depend on what the event records. -/
theorem errorEventCodes : Obligations.ErrorEventCodes :=
  fun _ _ _ _ _ => ⟨rfl, rfl, rfl, rfl, rfl⟩

/-! ### The `LotFull` texts (R13, R45) -/

/-- The same parameters with other bytes for the texts. -/
def withTexts (p : Params) (a b : Bytes) : Params :=
  { p with lotFullBytesTrue := a, lotFullBytesFalse := b }

/-- Settles O58: bytes that fit one display write are the text that is taken from them. -/
theorem lotFullTextsAreThoseADisplayWriteCarries : Obligations.LotFullTextsAreThoseADisplayWriteCarries := by
  refine ⟨fun p => ⟨displayable_length p _, displayable_length p _⟩, fun p a b ha hb => ⟨withTexts p a b, rfl, ?_, ?_⟩⟩
  · exact displayable_of_fits (p := withTexts p a b) ha
  · exact displayable_of_fits (p := withTexts p a b) hb

end Sys2Proof.Machine
end
